-- ==== Sys2Proof/Word.lean ====
section
/-! DEFINITION. The word types of ZCRC-CORE (00_scope.md R6, R8): every value the block handles is an
unsigned bit vector of a stated width. -/

namespace Sys2Proof

/-- One buffer byte, and the data byte IMM8 of a command (R61, R84). -/
abbrev Byte := BitVec 8

/-- A host register: every register of the window is 64 bits wide (R6, R38). -/
abbrev Word := BitVec 64

/-- A byte address of the data space of 2^64 bytes (R60). -/
abbrev Addr := BitVec 64

/-- A byte offset into the 64 KiB register window (R6, R38). -/
abbrev Offset := BitVec 16

end Sys2Proof
end

