-- ==== Sys2Proof/Syntax.lean ====
section
/-! DEFINITION. What the host can say to ZCRC-CORE: the six commands (30_encoding.md R85), the raw fields of a
CMD write value (R81), the assembler's spelling of a command (R90), the registers of the window (10_state.md
R38, R39) and the host's transactions (43_host_access.md R160), with the events of the environment. -/

namespace Sys2Proof

/-- The four channels, one per width (R3, R6, R82). -/
inductive Ch
  | w8 | w16 | w32 | w64
deriving DecidableEq, Repr

/-- `W(ch)` of R11: the width a channel selects (R20, R82). -/
@[reducible] def Ch.width : Ch → Nat
  | .w8 => 8
  | .w16 => 16
  | .w32 => 32
  | .w64 => 64

/-- The channel number `ch` of R20, the value of the command field CH (R82). -/
def Ch.index : Ch → BitVec 2
  | .w8 => 0
  | .w16 => 1
  | .w32 => 2
  | .w64 => 3

/-- The table source of a command (R83): the constant table TROM or the synthesized table TRAM. -/
inductive TSrc
  | rom | ram
deriving DecidableEq, Repr

/-- The value of the command field TSRC (R83). -/
def TSrc.bit : TSrc → BitVec 1
  | .rom => 0
  | .ram => 1

/-- The six commands of ZCRC-CORE (R85), one constructor per row of the opcode table. -/
inductive Instr
  /-- OP 0, no operand (R122). -/
  | nop
  /-- OP 1, operand CH (R123). -/
  | seed (ch : Ch)
  /-- OP 2, operand CH (R102). -/
  | synth (ch : Ch)
  /-- OP 3, operands CH, TSRC and IMM8 (R124). -/
  | update (ch : Ch) (src : TSrc) (imm : Byte)
  /-- OP 4, operands CH and TSRC (R142). -/
  | calcLen (ch : Ch) (src : TSrc)
  /-- OP 5, operands CH and TSRC (R145). -/
  | calcz (ch : Ch) (src : TSrc)
deriving DecidableEq, Repr

/-- The raw fields of a 64-bit CMD write value (R80, R81), the must-be-zero bits among them. -/
structure Fields where
  /-- v[3:0] -/
  op : BitVec 4
  /-- v[5:4] -/
  ch : BitVec 2
  /-- v[6] -/
  tsrc : BitVec 1
  /-- v[7], must be 0 -/
  bit7 : BitVec 1
  /-- v[15:8] -/
  imm8 : BitVec 8
  /-- v[31:16], must be 0 -/
  rsv : BitVec 16
  /-- v[63:32], must be 0 (R80) -/
  high : BitVec 32
deriving DecidableEq, Repr

/-- The OP value of a command (R85). -/
def Instr.op : Instr → BitVec 4
  | .nop => 0
  | .seed _ => 1
  | .synth _ => 2
  | .update _ _ _ => 3
  | .calcLen _ _ => 4
  | .calcz _ _ => 5

/-- The fields of a command: the ones R85 lists as used, every other field 0. -/
def Instr.fields (i : Instr) : Fields :=
  match i with
  | .nop => ⟨i.op, 0, 0, 0, 0, 0, 0⟩
  | .seed ch => ⟨i.op, ch.index, 0, 0, 0, 0, 0⟩
  | .synth ch => ⟨i.op, ch.index, 0, 0, 0, 0, 0⟩
  | .update ch src imm => ⟨i.op, ch.index, src.bit, 0, imm, 0, 0⟩
  | .calcLen ch src => ⟨i.op, ch.index, src.bit, 0, 0, 0, 0⟩
  | .calcz ch src => ⟨i.op, ch.index, src.bit, 0, 0, 0, 0⟩

/-- The assembler's operand `wN` (R90). -/
def Ch.asm : Ch → String
  | .w8 => "w8"
  | .w16 => "w16"
  | .w32 => "w32"
  | .w64 => "w64"

/-- The assembler's operand `src` (R90). -/
def TSrc.asm : TSrc → String
  | .rom => "rom"
  | .ram => "ram"

/-- The assembly text of a command (R90), IMM8 in decimal. -/
def Instr.asm : Instr → String
  | .nop => "nop"
  | .seed ch => "seed " ++ ch.asm
  | .synth ch => "synth " ++ ch.asm
  | .update ch src imm => "update " ++ ch.asm ++ ", " ++ src.asm ++ ", " ++ Nat.repr imm.toNat
  | .calcLen ch src => "calc " ++ ch.asm ++ ", " ++ src.asm
  | .calcz ch src => "calcz " ++ ch.asm ++ ", " ++ src.asm

/-- The registers of the window (R38); `tbl ch src i` is one entry of the table window (R39). -/
inductive Reg
  | cmd | status | addr | len | count
  | crc (ch : Ch)
  | digest (ch : Ch)
  | tbl (ch : Ch) (src : TSrc) (i : Byte)
deriving DecidableEq, Repr

/-- The size of a host transaction: 1, 2, 4 or 8 bytes (R160). -/
inductive AccessSize
  | b1 | b2 | b4 | b8
deriving DecidableEq, Repr

/-- What can happen next from outside the sequencer (R7, R160, R195, R70), or the sequencer's own turn. -/
inductive Event
  /-- The host transaction `RD(off, size)` (R160). -/
  | rd (off : Offset) (size : AccessSize)
  /-- The host transaction `WR(off, size, v)` (R160). -/
  | wr (off : Offset) (size : AccessSize) (v : Word)
  /-- The host's `poll` (R91): read STATUS until its bit 0 reads 0, the sequencer moving between two reads. -/
  | poll
  /-- The sequencer takes one step (R40, R160: steps interleave with transactions in any order). -/
  | tick
  /-- Reset is asserted (R195). -/
  | reset
  /-- Another agent writes one byte of the data space (R70, R201). -/
  | memWrite (a : Addr) (b : Byte)
deriving DecidableEq, Repr

end Sys2Proof
end

