-- ==== Sys2Proof/WellFormed.lean ====
section
/-! DEFINITION. Which CMD write values are legal (30_encoding.md R87), check by check, as a predicate on the raw
fields; and a command is well-formed when its own fields are. The type `Instr` holds no other command
(no operand of it can be out of range), which Laws/PerInstr.lean shows constructor by constructor. -/

namespace Sys2Proof

/-- `v[63:32]` must be 0 (R80, first item of R87). -/
def Fields.highZero (f : Fields) : Bool := f.high == 0

/-- `v[7]` must be 0 (R81, second item of R87). -/
def Fields.bit7Zero (f : Fields) : Bool := f.bit7 == 0

/-- `v[31:16]` must be 0 (R81, third item of R87). -/
def Fields.rsvZero (f : Fields) : Bool := f.rsv == 0

/-- OP must not be one of 0x6 to 0xF (fourth item of R87). -/
def Fields.opDefined (f : Fields) : Bool := decide (f.op.toNat < 6)

/-- TSRC must be 0 for NOP, SEED and SYNTH (fifth item of R87). -/
def Fields.tsrcAllowed (f : Fields) : Bool :=
  !(f.op == 0 || f.op == 1 || f.op == 2) || f.tsrc == 0

/-- IMM8 must be 0 for NOP, SEED, SYNTH, CALC and CALCZ (sixth item of R87). -/
def Fields.immAllowed (f : Fields) : Bool :=
  !(f.op == 0 || f.op == 1 || f.op == 2 || f.op == 4 || f.op == 5) || f.imm8 == 0

/-- CH must be 0 for NOP (last item of R87). -/
def Fields.chAllowed (f : Fields) : Bool :=
  !(f.op == 0) || f.ch == 0

/-- A CMD write value is legal when no item of R87 applies to it. -/
def Fields.wf (f : Fields) : Bool :=
  f.highZero && f.bit7Zero && f.rsvZero && f.opDefined && f.tsrcAllowed && f.immAllowed && f.chAllowed

/-- A command is well-formed when its fields are legal (R87). -/
def Instr.wf (i : Instr) : Bool := i.fields.wf

end Sys2Proof
end

