-- ==== Sys2Proof/Decode.lean ====
section
/-! DEFINITION. The decoder of CMD write values (30_encoding.md R80 to R89), total on all 2^64 of them and rejecting by
name, and after it the encoder, both from the encoding tables of R81, R85 and R86. -/

namespace Sys2Proof

/-- Why a CMD write value is illegal: one name per item of R87. -/
inductive Illegal
  | highBits | bit7 | reservedBits | reservedOp | tsrcNotZero | immNotZero | chNotZero
deriving DecidableEq, Repr

/-- The channel a CH field selects; all four values are legal (R82). -/
def Ch.ofIndex (b : BitVec 2) : Ch :=
  if b = 0 then .w8 else if b = 1 then .w16 else if b = 2 then .w32 else .w64

/-- The table source a TSRC field selects (R83). -/
def TSrc.ofBit (b : BitVec 1) : TSrc :=
  if b = 0 then .rom else .ram

/-- The fields of a CMD write value (R80, R81). -/
def fieldsOf (v : Word) : Fields where
  op := v.extractLsb' 0 4
  ch := v.extractLsb' 4 2
  tsrc := v.extractLsb' 6 1
  bit7 := v.extractLsb' 7 1
  imm8 := v.extractLsb' 8 8
  rsv := v.extractLsb' 16 16
  high := v.extractLsb' 32 32

/-- The command that the OP, CH, TSRC and IMM8 fields select (R85, R164), with the fields that OP requires to be 0. -/
def decodeFields (f : Fields) : Except Illegal Instr :=
  let ch := Ch.ofIndex f.ch
  let src := TSrc.ofBit f.tsrc
  if f.op = 0 then
    if f.tsrc ≠ 0 then .error .tsrcNotZero
    else if f.imm8 ≠ 0 then .error .immNotZero
    else if f.ch ≠ 0 then .error .chNotZero
    else .ok .nop
  else if f.op = 1 then
    if f.tsrc ≠ 0 then .error .tsrcNotZero
    else if f.imm8 ≠ 0 then .error .immNotZero
    else .ok (.seed ch)
  else if f.op = 2 then
    if f.tsrc ≠ 0 then .error .tsrcNotZero
    else if f.imm8 ≠ 0 then .error .immNotZero
    else .ok (.synth ch)
  else if f.op = 3 then .ok (.update ch src f.imm8)
  else if f.op = 4 then
    if f.imm8 ≠ 0 then .error .immNotZero else .ok (.calcLen ch src)
  else if f.op = 5 then
    if f.imm8 ≠ 0 then .error .immNotZero else .ok (.calcz ch src)
  else .error .reservedOp

/-- The decoder: the command a 64-bit CMD write value carries, or the item of R87 that makes it illegal. Its answer
never depends on state (R89). -/
def decode (v : Word) : Except Illegal Instr :=
  let f := fieldsOf v
  if f.high ≠ 0 then .error .highBits
  else if f.bit7 ≠ 0 then .error .bit7
  else if f.rsv ≠ 0 then .error .reservedBits
  else decodeFields f

/-- `illegal(v)` of R164: an item of R87 applies to the CMD write value. -/
def illegal (v : Word) : Bool := !(fieldsOf v).wf

/-- The word of a command: the legal-words column of R86, zero-extended to the CMD write value (R80). -/
def encode : Instr → Word
  | .nop => 0x0
  | .seed ch => 0x1 + (ch.index.setWidth 64 <<< 4)
  | .synth ch => 0x2 + (ch.index.setWidth 64 <<< 4)
  | .update ch src imm =>
    0x3 + (ch.index.setWidth 64 <<< 4) + (src.bit.setWidth 64 <<< 6) + (imm.setWidth 64 <<< 8)
  | .calcLen ch src => 0x4 + (ch.index.setWidth 64 <<< 4) + (src.bit.setWidth 64 <<< 6)
  | .calcz ch src => 0x5 + (ch.index.setWidth 64 <<< 4) + (src.bit.setWidth 64 <<< 6)

/-- One row of the match and mask table of R86. -/
structure OpcodeRow where
  mnemonic : String
  mask : BitVec 32
  pattern : BitVec 32
deriving DecidableEq, Repr

/-- The table of R86. -/
def opcodeRows : List OpcodeRow :=
  [⟨"NOP", 0xFFFFFFFF, 0x00000000⟩,
   ⟨"SEED", 0xFFFFFFCF, 0x00000001⟩,
   ⟨"SYNTH", 0xFFFFFFCF, 0x00000002⟩,
   ⟨"UPDATE", 0xFFFF008F, 0x00000003⟩,
   ⟨"CALC", 0xFFFFFF8F, 0x00000004⟩,
   ⟨"CALCZ", 0xFFFFFF8F, 0x00000005⟩]

/-- "A command word c selects a mnemonic when `c & mask = match`" (R86). -/
def OpcodeRow.selects (r : OpcodeRow) (c : BitVec 32) : Bool := c &&& r.mask == r.pattern

/-- The mnemonic of a command (R85). -/
def Instr.mnemonic : Instr → String
  | .nop => "NOP"
  | .seed _ => "SEED"
  | .synth _ => "SYNTH"
  | .update _ _ _ => "UPDATE"
  | .calcLen _ _ => "CALC"
  | .calcz _ _ => "CALCZ"

/-- The command the decoder reads from a table row's bits `w`, `nbits` of them, every bit above them 0. -/
def decodeTableWord (nbits w : Nat) : Option Instr :=
  let bits := w % 2 ^ nbits
  if bits < 2 ^ 64 then (decode (BitVec.ofNat 64 bits)).toOption else none

end Sys2Proof
end

