-- ==== Sys2Proof/Machine/Params.lean ====
section
/-! DEFINITION. The hardwired constants of the four channels (10_state.md R20, R22): polynomial, initial value and
bit convention. The final transform, the fourth of them, is `Ch.fx` of Machine/Crc.lean. -/

namespace Sys2Proof

/-- `POLY(ch)` (R20), used exactly as written (R21). -/
def Ch.poly : (ch : Ch) → BitVec ch.width
  | .w8 => 0x07#8
  | .w16 => 0x1021#16
  | .w32 => 0xEDB88320#32
  | .w64 => 0x95AC9329AC4BC9B5#64

/-- `INIT(ch)` (R20). -/
def Ch.init : (ch : Ch) → BitVec ch.width
  | .w8 => 0x00#8
  | .w16 => 0xFFFF#16
  | .w32 => 0xFFFFFFFF#32
  | .w64 => 0xFFFFFFFFFFFFFFFF#64

/-- `REFL(ch)` (R20): true for the reflected bit convention. -/
def Ch.refl : Ch → Bool
  | .w8 => false
  | .w16 => false
  | .w32 => true
  | .w64 => true

end Sys2Proof
end

