-- ==== Sys2Proof/Machine/Crc.lean ====
section
/-! DEFINITION. The arithmetic of the block: the synthesis function (40_table.md R100) and the constant table (R104),
the update function (41_accumulate.md R120), the final transform (R121), the bit-serial form (R126), `calculate`
(42_calculate.md R140) and the two static evaluators (R150). -/

namespace Sys2Proof

/-- One iteration of the loop of R100: the tested bit is read before the shift, the XOR comes after it. -/
def Ch.feedback (ch : Ch) (v : BitVec ch.width) : BitVec ch.width :=
  if ch.refl then
    if v.getLsbD 0 then (v >>> 1) ^^^ ch.poly else v >>> 1
  else
    if v.msb then (v <<< 1) ^^^ ch.poly else v <<< 1

/-- `repeat 8 times` of R100 and R126. -/
def Ch.feedback8 (ch : Ch) (v : BitVec ch.width) : BitVec ch.width :=
  Nat.iterate ch.feedback 8 v

/-- Where a byte enters a register: the high-order byte for the non-reflected widths, the low-order byte for the
reflected ones (R63, R100). -/
def Ch.place (ch : Ch) (b : Byte) : BitVec ch.width :=
  if ch.refl then b.setWidth ch.width else b.setWidth ch.width <<< (ch.width - 8)

/-- `synth_entry(W, i)` (R100). -/
def Ch.synthEntry (ch : Ch) (i : Byte) : BitVec ch.width :=
  ch.feedback8 (ch.place i)

/-- `TROM[ch][i]`, the constant table (R27, R103 to R105): it is no storage, and R104 defines its contents. -/
def Ch.trom (ch : Ch) (i : Byte) : BitVec ch.width :=
  ch.synthEntry i

/-- `idx` of R120: which table entry an update reads. -/
def Ch.updateIndex (ch : Ch) (r : BitVec ch.width) (b : Byte) : Byte :=
  if ch.refl then (r ^^^ b.setWidth ch.width).setWidth 8
  else (r >>> (ch.width - 8)).setWidth 8 ^^^ b

/-- `update(W, r, T, b)` (R120). -/
def Ch.update (ch : Ch) (r : BitVec ch.width) (T : Byte → BitVec ch.width) (b : Byte) : BitVec ch.width :=
  if ch.refl then T (ch.updateIndex r b) ^^^ (r >>> 8)
  else T (ch.updateIndex r b) ^^^ (r <<< 8)

/-- `fx(W, r)`, the final transform (R20, R121). -/
def Ch.fx : (ch : Ch) → BitVec ch.width → BitVec ch.width
  | .w8, r => r
  | .w16, r => r
  | .w32, r => ~~~r
  | .w64, r => r

/-- `bitwise(W, r, b)`, the bit-serial form of an update (R126). -/
def Ch.bitwise (ch : Ch) (r : BitVec ch.width) (b : Byte) : BitVec ch.width :=
  ch.feedback8 (r ^^^ ch.place b)

/-- The register after the bytes `bs`, folded in index order from `r` with the synthesized entries: the loop of R140. -/
def Ch.foldBytes (ch : Ch) (r : BitVec ch.width) (bs : List Byte) : BitVec ch.width :=
  bs.foldl (fun r b => ch.update r ch.synthEntry b) r

/-- `calculate(W, s)`, the digest of a byte sequence (R140, R141). -/
def Ch.calculate (ch : Ch) (bs : List Byte) : BitVec ch.width :=
  ch.fx (ch.foldBytes ch.init bs)

/-- `go` of `static_a` (R150); `none` for a sequence that holds no 0x00 sentinel, which R150 excludes. -/
def Ch.staticGo (ch : Ch) (r : BitVec ch.width) : List Byte → Option (BitVec ch.width)
  | [] => none
  | b :: bs => if b = 0 then some (ch.fx r) else ch.staticGo (ch.update r ch.synthEntry b) bs

/-- `static_a(W, s)` (R150). -/
def Ch.staticA (ch : Ch) (bs : List Byte) : Option (BitVec ch.width) :=
  ch.staticGo ch.init bs

/-- `static_b(W, b_0 .. b_(n-1))` (R150). -/
def Ch.staticB (ch : Ch) (bs : List Byte) : BitVec ch.width :=
  ch.fx (bs.foldl (fun r b => ch.update r ch.synthEntry b) ch.init)

/-- The bytes before the first 0x00, or all of them where there is none (R146, R150). -/
def beforeZero : List Byte → List Byte
  | [] => []
  | b :: bs => if b = 0 then [] else b :: beforeZero bs

end Sys2Proof
end

