-- ==== Sys2Proof/Config.lean ====
section
/-! DEFINITION. What a platform or a free draw fixes and the spec leaves open: two constants with no body,
so that no proof can see a value of theirs (00_scope.md R6, R10; 93_implementation_defined.md section 2). -/

namespace Sys2Proof

/-- `any` of R10: an unspecified 64-bit value "drawn freshly at each read". The model applies it to the draw
counter `State.draws`, which every draw advances (S1 to S5 of 93_implementation_defined.md; notes/assumptions/1.md). -/
opaque Config.freeValue : Nat → Word

/-- `MemOracle` of R6 and R61, OPEN: what a read of a byte answers that nothing in the model has written
(S8 of 93_implementation_defined.md; notes/assumptions/2.md). -/
opaque Config.memOracle : Addr → Byte

end Sys2Proof
end

