-- ==== Sys2Proof/Machine/State.lean ====
section
/-! DEFINITION. The state of ZCRC-CORE as plain data (10_state.md R23 to R40), with the data space and the admitted
addresses of its read port (20_memory.md R60, R61), what the environment does next (00_scope.md R7), and the state right
after reset (70_reset_and_hazards.md R195). -/

namespace Sys2Proof.Machine

/-- The state of one channel of width `w` (R23). TROM is no storage: it is the constant `Ch.trom` (R27, R104). -/
structure Channel (w : Nat) where
  /-- `CRC[ch]`, the polynomial feedback accumulator (R24). -/
  crc : BitVec w
  /-- `TRAM[ch][0..255]`, the synthesized table (R25). -/
  tram : Vector (BitVec w) 256
  /-- `TVALID[ch]`, the one-time-initialization guard of the table (R26). -/
  tvalid : Bool
deriving DecidableEq, Repr

/-- The `mode` of a fold (R40): LEN for CALC, Z for CALCZ. -/
inductive FoldMode
  | len | z
deriving DecidableEq, Repr

/-- `Fold(ch, tsrc, mode, base, len, k)` of R40. -/
structure FoldState where
  ch : Ch
  src : TSrc
  mode : FoldMode
  base : Word
  len : Word
  /-- The index of the next byte to read, `0 <= k <= len` (R40). -/
  k : Word
deriving DecidableEq, Repr

/-- The hidden state `seq` of the sequencer (R40). The `next` of `Synth(ch, next)` is `none` for Idle and a fold
otherwise. -/
inductive Seq
  | idle
  | synth (ch : Ch) (next : Option FoldState)
  | fold (f : FoldState)
deriving DecidableEq, Repr

/-- The error codes of R175 that the block can produce; the reserved codes 7 to 15 are "never produced". -/
inductive ErrCode
  | none | illegal | notable | busy | range | bus | access
deriving DecidableEq, Repr

/-- A run of byte addresses the platform admits, from `base`, `size` bytes long. -/
structure Region where
  base : Nat
  size : Nat
deriving DecidableEq, Repr

/-- The data space (R60): the bytes something in the model has put there, in one canonical form (`Memory.wf`). An address
that is not listed has no known byte. -/
abbrev Memory := List Host.Cell

/-- The whole state. STATUS is no field: R33 is computed from `fault`, `err`, `seq` and the channels' `tvalid`
(`status` of Machine/Flags.lean), since "`STATUS.BUSY = 1` exactly when `seq != Idle`" (R40). -/
structure State where
  /-- Channel 0, width 8 (R23). -/
  ch8 : Channel 8
  /-- Channel 1, width 16 (R23). -/
  ch16 : Channel 16
  /-- Channel 2, width 32 (R23). -/
  ch32 : Channel 32
  /-- Channel 3, width 64 (R23). -/
  ch64 : Channel 64
  /-- `ADDR` (R28). -/
  addr : Word
  /-- `LEN` (R29). -/
  len : Word
  /-- `COUNT` (R30). -/
  count : Word
  /-- `STATUS.FAULT` (R35). -/
  fault : Bool
  /-- `STATUS.ERR` (R36). -/
  err : ErrCode
  /-- `seq`, the sequencer's hidden state; BUSY is `seq != Idle` (R34, R40). -/
  seq : Seq
  /-- The environment: the bytes of the data space (R60, R61). -/
  mem : Memory
  /-- The environment: `MemAdmit` (R6, R61) as the regions it admits. -/
  admitMap : List Region
  /-- The environment: the addresses of the reads the port has made, oldest first (R69). -/
  portReads : List Addr
  /-- The environment: the bytes other agents have written since a buffer command was last accepted, while the block was
  BUSY; a read of one of them races (R70, R201; notes/assumptions/5.md). -/
  raced : List Addr
  /-- The host and the other agents: what happens next, soonest first (R7, R160). -/
  inputs : List Event
  /-- The host: the values its reads have returned, oldest first (R207). -/
  reads : List Word
  /-- The model's own: how many free values have been drawn (R10; notes/assumptions/1.md). -/
  draws : Nat
deriving DecidableEq, Repr

/-- Why a step can stop. ZCRC-CORE never stops: every error the spec names enters the sticky FAULT state, which is a
next state (R176), so this type has no constructor. -/
inductive Fault
deriving DecidableEq, Repr

/-- Why a command can have no meaning. -/
inductive Refusal
  /-- Raised by `exec` alone, for a row of the opcode table without a meaning; no arm uses it. Safe. -/
  | notModelled (mnemonic : String)
deriving DecidableEq, Repr

/-- A channel right after reset (R195): CRC at INIT, TVALID 0. The spec leaves TRAM `any`; the zeros here are the
model's choice, and nothing reads them while TVALID is 0 (R25; DESIGN CHOICE, notes/assumptions/3.md). -/
def Channel.reset (ch : Ch) : Channel ch.width where
  crc := ch.init
  tram := Vector.replicate 256 0
  tvalid := false

/-- The machine right after reset (R195). The platform's side (memory, admitted addresses) is no state of the block:
nothing is listed and the whole data space is admitted (DESIGN CHOICE, notes/assumptions/4.md). -/
def State.reset : State where
  ch8 := Channel.reset .w8
  ch16 := Channel.reset .w16
  ch32 := Channel.reset .w32
  ch64 := Channel.reset .w64
  addr := 0
  len := 0
  count := 0
  fault := false
  err := .none
  seq := .idle
  mem := []
  admitMap := [⟨0, 2 ^ 64⟩]
  portReads := []
  raced := []
  inputs := []
  reads := []
  draws := 0

end Sys2Proof.Machine
end

