-- ==== Sys2Proof/Machine/Ops.lean ====
section
/-! DEFINITION. The named operations over registers, memory and the sequencer that the meanings share: a channel's
state, the data space and its read port (20_memory.md R61), free draws (R10), raising an error (60_exceptions.md R176,
R177), reset (R195), and what every command meets before its own effect (R163, R178). -/

namespace Sys2Proof.Machine

/-- The state of channel `ch` (R23). -/
def State.chan (s : State) : (ch : Ch) → Channel ch.width
  | .w8 => s.ch8
  | .w16 => s.ch16
  | .w32 => s.ch32
  | .w64 => s.ch64

/-- `s` with the state of channel `ch` replaced; no other channel is touched (R23). -/
def State.setChan (s : State) : (ch : Ch) → Channel ch.width → State
  | .w8, c => { s with ch8 := c }
  | .w16, c => { s with ch16 := c }
  | .w32, c => { s with ch32 := c }
  | .w64, c => { s with ch64 := c }

/-- `CRC[ch]` (R24). -/
def State.crc (s : State) (ch : Ch) : BitVec ch.width := (s.chan ch).crc

/-- `TRAM[ch][i]` (R25). -/
def State.tram (s : State) (ch : Ch) (i : Byte) : BitVec ch.width := (s.chan ch).tram[i.toNat]'i.isLt

/-- `TVALID[ch]` (R26). -/
def State.tvalid (s : State) (ch : Ch) : Bool := (s.chan ch).tvalid

/-- `CRC[ch] <- v`. -/
def State.setCrc (s : State) (ch : Ch) (v : BitVec ch.width) : State :=
  s.setChan ch { s.chan ch with crc := v }

/-- `TVALID[ch] <- b`. -/
def State.setTvalid (s : State) (ch : Ch) (b : Bool) : State :=
  s.setChan ch { s.chan ch with tvalid := b }

/-- `TRAM[ch][i] <- f i` for every i of 0..255. -/
def State.setTram (s : State) (ch : Ch) (f : Byte → BitVec ch.width) : State :=
  s.setChan ch { s.chan ch with tram := Vector.ofFn fun i : Fin 256 => f (BitVec.ofFin i) }

/-- `STATUS.BUSY`: 1 exactly when `seq != Idle` (R34, R40). -/
def State.busy (s : State) : Bool := s.seq != .idle

/-! ### The data space -/

/-- The byte listed at an address, or nothing. -/
def Memory.byteAt : Memory → Nat → Option Byte
  | [], _ => none
  | (k, v) :: rest, a => if k = a then some v else Memory.byteAt rest a

/-- Store one byte, keeping the addresses strictly rising. -/
def Memory.store : Memory → Nat → Byte → Memory
  | [], a, b => [(a, b)]
  | (k, v) :: rest, a, b =>
    if a < k then (a, b) :: (k, v) :: rest
    else if a = k then (a, b) :: rest
    else (k, v) :: Memory.store rest a b

/-- The addresses rise strictly from `lo` on and lie in the data space of 2^64 bytes. -/
def Memory.wfFrom (lo : Nat) : Memory → Bool
  | [] => true
  | (k, _) :: rest => decide (lo ≤ k) && decide (k < 2 ^ 64) && Memory.wfFrom (k + 1) rest

/-- The canonical form of a memory: addresses strictly rising, all of them in the data space (R60). An unlisted address
has no known byte, so no entry can equal it. -/
def Memory.wf (m : Memory) : Bool := Memory.wfFrom 0 m

/-- One region holds the address. -/
def Region.holds (r : Region) (a : Nat) : Bool := decide (r.base ≤ a) && decide (a < r.base + r.size)

/-- `MemAdmit(a)` (R61): the platform admits a read of this byte. -/
def State.memAdmit (s : State) (a : Addr) : Bool := s.admitMap.any fun r => r.holds a.toNat

/-- The byte a read of `a` answers now (R61, R70): the one listed there, or, where nothing in the model has written that
byte, what `MemOracle` answers for it. -/
def State.memByte (s : State) (a : Addr) : Byte :=
  (Memory.byteAt s.mem a.toNat).getD (Config.memOracle a)

/-! ### Free values -/

/-- The `i`-th free value from the present draw on. -/
def State.free (s : State) (i : Nat) : Word := Config.freeValue (s.draws + i)

/-- `n` free values have been drawn. -/
def State.drawn (s : State) (n : Nat) : State := { s with draws := s.draws + n }

/-- `TRAM[ch]` becomes unspecified: 256 free values (R25, R177). -/
def State.freeTram (s : State) (ch : Ch) : State :=
  (s.setTram ch fun i => (s.free i.toNat).setWidth ch.width).drawn 256

/-- `CRC[ch]` becomes unspecified (R177). -/
def State.freeCrc (s : State) (ch : Ch) : State :=
  (s.setCrc ch ((s.free 0).setWidth ch.width)).drawn 1

/-- `COUNT` becomes unspecified (R177). -/
def State.freeCount (s : State) : State :=
  ({ s with count := s.free 0 } : State).drawn 1

/-! ### The buffer read port and the other agents -/

/-- Another agent writes one byte of the data space; the block never does (R60). While the block is BUSY the byte is
noted as written under the running command (R70). -/
def State.memWrite (s : State) (a : Addr) (b : Byte) : State :=
  { s with mem := Memory.store s.mem a.toNat b, raced := if s.busy then a :: s.raced else s.raced }

/-- The value of `MemRead(a, 1)` (R61): the byte stored there, or, where another agent has written that byte during the
command, "any byte value" (R70), a free draw. -/
def State.portByte (s : State) (a : Addr) : Byte :=
  if a ∈ s.raced then (s.free 0).setWidth 8 else s.memByte a

/-- The read port has made the read of `a` (R69). -/
def State.issueRead (s : State) (a : Addr) : State :=
  ({ s with portReads := s.portReads ++ [a] } : State).drawn (if a ∈ s.raced then 1 else 0)

/-! ### Errors: the block's trap entry (R181) -/

/-- What an error that aborts a running command leaves unspecified (R177): CRC[ch] and COUNT, and TRAM[ch] too while the
command was synthesizing; TVALID[ch] is then already 0. An idle sequencer runs no command. -/
def State.abandon (s : State) : State :=
  match s.seq with
  | .idle => s
  | .synth ch _ => ((s.freeTram ch).freeCrc ch).freeCount
  | .fold f => (s.freeCrc f.ch).freeCount

/-- `raise E` (R176) with its effect on an aborted command (R177): the one way into the FAULT state, in which nothing is
saved and no mode changes (R181). There is no return from it but reset (R182). -/
def State.raise (s : State) (e : ErrCode) : State :=
  { s.abandon with fault := true, err := e, seq := .idle }

/-! ### Reset -/

/-- One channel is reset (R195): CRC to INIT, TVALID to 0, TRAM to `any`. -/
def State.resetChan (s : State) (ch : Ch) : State :=
  ((s.freeTram ch).setCrc ch ch.init).setTvalid ch false

/-- Reset is asserted (R195, R197): every state element of the block takes its reset value, a running command is
abandoned, and the environment stays as it is. Assertion and release (R196) are one atomic event, so no transaction and no
sequencer step falls between them: the spec says nothing of that time (DESIGN CHOICE, notes/assumptions/21.md). -/
def State.applyReset (s : State) : State :=
  { ((((s.resetChan .w8).resetChan .w16).resetChan .w32).resetChan .w64) with
    addr := 0, len := 0, count := 0, fault := false, err := .none, seq := .idle }

/-! ### Accepting a command -/

/-- What a legal command written to CMD meets before its own effect (R163, R178): in FAULT the write is ignored, while
BUSY it raises BUSY, and otherwise the command is accepted. -/
def State.accepting (s : State) (effect : State → State) : Host.Outcome State Fault Refusal :=
  if s.fault then .next s
  else if s.busy then .next (s.raise .busy)
  else .next (effect s)

end Sys2Proof.Machine
end

