-- ==== Sys2Proof/Machine/Operands.lean ====
section
/-! DEFINITION. The operands a command takes from state rather than from its word: the table a fold reads (40_table.md
R107), the buffer given by ADDR and LEN (20_memory.md R62, R68), and the latched fold of CALC and CALCZ (42_calculate.md
R142, R145). -/

namespace Sys2Proof.Machine

/-- `table(ch, tsrc)` (R107). -/
def State.table (s : State) (ch : Ch) : TSrc → Byte → BitVec ch.width
  | .rom, i => ch.trom i
  | .ram, i => s.tram ch i

/-- The range check of R68, with unbounded arithmetic: true where CALC and CALCZ raise RANGE. -/
def State.rangeBad (s : State) : Bool :=
  s.len != 0 && decide (2 ^ 64 < s.addr.toNat + s.len.toNat)

/-- `f <- Fold(ch, tsrc, mode, ADDR, LEN, 0)`: base and len latched at acceptance (R142, R145). -/
def State.latchFold (s : State) (ch : Ch) (src : TSrc) (mode : FoldMode) : FoldState where
  ch := ch
  src := src
  mode := mode
  base := s.addr
  len := s.len
  k := 0

/-- The address of the byte a fold reads next, `base + k` (R62, R144). -/
def FoldState.address (f : FoldState) : Addr := f.base + f.k

/-- The addresses of the buffer that ADDR and LEN describe, element k at `ADDR + k` (R28, R29, R62). -/
def State.bufferAddrs (s : State) : List Addr :=
  (List.range s.len.toNat).map fun k => s.addr + BitVec.ofNat 64 k

/-- The bytes of that buffer in index order, as they stand now (R62). -/
def State.buffer (s : State) : List Byte := s.bufferAddrs.map s.memByte

end Sys2Proof.Machine
end

