-- ==== Sys2Proof/Machine/Accumulate.lean ====
section
/-! DEFINITION. The commands of the polynomial feedback accumulator: NOP, SEED and UPDATE (41_accumulate.md R122 to
R124). Each is complete when its CMD write is (70_reset_and_hazards.md R205). -/

namespace Sys2Proof.Machine

/-- NOP (R122). -/
def execNop (s : State) : Host.Outcome State Fault Refusal :=
  s.accepting fun s => s

/-- SEED (R123). -/
def execSeed (ch : Ch) (s : State) : Host.Outcome State Fault Refusal :=
  s.accepting fun s => s.setCrc ch ch.init

/-- `CRC[ch] <- update(W(ch), CRC[ch], table(ch, tsrc), b)` (R124, R144, R146). -/
def State.foldByte (s : State) (ch : Ch) (src : TSrc) (b : Byte) : State :=
  s.setCrc ch (ch.update (s.crc ch) (s.table ch src) b)

/-- UPDATE (R124). -/
def execUpdate (ch : Ch) (src : TSrc) (imm : Byte) (s : State) : Host.Outcome State Fault Refusal :=
  s.accepting fun s =>
    if src = .ram ∧ s.tvalid ch = false then s.raise .notable else s.foldByte ch src imm

end Sys2Proof.Machine
end

