-- ==== Sys2Proof/Machine/Table.lean ====
section
/-! DEFINITION. The table synthesis engine's command (40_table.md R102). -/

namespace Sys2Proof.Machine

/-- The start of a synthesis of `ch` (R102, and R142, R145 with TSRC = 1): TVALID[ch] falls and the sequencer is to
synthesize, then to do `next`. -/
def State.startSynth (s : State) (ch : Ch) (next : Option FoldState) : State :=
  { s.setTvalid ch false with seq := .synth ch next }

/-- SYNTH (R102), at acceptance. -/
def execSynth (ch : Ch) (s : State) : Host.Outcome State Fault Refusal :=
  s.accepting fun s => s.startSynth ch none

end Sys2Proof.Machine
end

