-- ==== Sys2Proof/Machine/Calculate.lean ====
section
/-! DEFINITION. The commands that fold a buffer: CALC and CALCZ (42_calculate.md R142, R145), at acceptance. Their bytes
are folded by the sequencer's steps (Machine/Sequencer.lean). -/

namespace Sys2Proof.Machine

/-- `accept CALC` and `accept CALCZ` of R142 and R145, which differ in the mode of the fold alone. No byte
has been written under the new command yet (R70). -/
def State.startFold (s : State) (ch : Ch) (src : TSrc) (mode : FoldMode) : State :=
  if s.rangeBad then s.raise .range
  else
    let f := s.latchFold ch src mode
    let s := { s.setCrc ch ch.init with count := 0, raced := [] }
    match src with
    | .rom => { s with seq := .fold f }
    | .ram => s.startSynth ch (some f)

/-- CALC (R142). -/
def execCalc (ch : Ch) (src : TSrc) (s : State) : Host.Outcome State Fault Refusal :=
  s.accepting fun s => s.startFold ch src .len

/-- CALCZ (R145). -/
def execCalcz (ch : Ch) (src : TSrc) (s : State) : Host.Outcome State Fault Refusal :=
  s.accepting fun s => s.startFold ch src .z

end Sys2Proof.Machine
end

