-- ==== Sys2Proof/Machine/Dispatch.lean ====
section
/-! DEFINITION. The meaning of a legal command written to CMD (43_host_access.md R164), one arm per command. -/

namespace Sys2Proof.Machine

def exec (i : Instr) (s : State) : Host.Outcome State Fault Refusal :=
  match i with
  | .nop => Sys2Proof.Machine.execNop s
  | .seed ch => Sys2Proof.Machine.execSeed ch s
  | .synth ch => Sys2Proof.Machine.execSynth ch s
  | .update ch src imm => Sys2Proof.Machine.execUpdate ch src imm s
  | .calcLen ch src => Sys2Proof.Machine.execCalc ch src s
  | .calcz ch src => Sys2Proof.Machine.execCalcz ch src s

end Sys2Proof.Machine
end

