-- ==== Sys2Proof/Machine/Flags.lean ====
section
/-! DEFINITION. STATUS, the block's only flags (10_state.md R33 to R37, R42), and the error codes (60_exceptions.md
R175). No command sets a flag from a computed value (R42). -/

namespace Sys2Proof.Machine

/-- The number of an error, as STATUS.ERR holds it (R175). -/
def ErrCode.code : ErrCode → BitVec 4
  | .none => 0
  | .illegal => 1
  | .notable => 2
  | .busy => 3
  | .range => 4
  | .bus => 5
  | .access => 6

/-- STATUS[11:8]: TVALID[3], TVALID[2], TVALID[1], TVALID[0] (R37). -/
def State.tvalidBits (s : State) : BitVec 4 :=
  BitVec.ofBool (s.tvalid .w64) ++ BitVec.ofBool (s.tvalid .w32) ++ BitVec.ofBool (s.tvalid .w16)
    ++ BitVec.ofBool (s.tvalid .w8)

/-- The STATUS register (R33): bit 0 BUSY, bit 1 FAULT, bits 7:4 ERR, bits 11:8 TVALID, every other bit 0. -/
def State.status (s : State) : Word :=
  (0#52 ++ s.tvalidBits ++ s.err.code ++ 0#2 ++ BitVec.ofBool s.fault ++ BitVec.ofBool s.busy).setWidth 64

end Sys2Proof.Machine
end

