-- ==== Sys2Proof/Machine/HostAccess.lean ====
section
/-! DEFINITION. The host's transactions: the register map (10_state.md R38, R39), reads (43_host_access.md R162), writes
(R163), the acceptance of a command (R164), and the priority of their errors (60_exceptions.md R178). -/

namespace Sys2Proof.Machine

/-- The offset of a register (R38, R39). -/
def offsetOf : Reg → Offset
  | .cmd => 0x0000
  | .status => 0x0008
  | .addr => 0x0010
  | .len => 0x0018
  | .count => 0x0020
  | .crc ch => 0x0040 + 8 * ch.index.setWidth 16
  | .digest ch => 0x0060 + 8 * ch.index.setWidth 16
  | .tbl ch src i => 0x1000 + 0x1000 * ch.index.setWidth 16 + 0x800 * src.bit.setWidth 16 + 8 * i.setWidth 16

/-- The register an offset maps to, or none where it is misaligned or unmapped (R38, R39, R161). -/
def regAt (off : Offset) : Option Reg :=
  if off.extractLsb' 0 3 ≠ 0 then none
  else if off = 0x0000 then some .cmd
  else if off = 0x0008 then some .status
  else if off = 0x0010 then some .addr
  else if off = 0x0018 then some .len
  else if off = 0x0020 then some .count
  else if 0x0040 ≤ off ∧ off ≤ 0x0058 then some (.crc (Ch.ofIndex (off.extractLsb' 3 2)))
  else if 0x0060 ≤ off ∧ off ≤ 0x0078 then some (.digest (Ch.ofIndex (off.extractLsb' 3 2)))
  else if 0x1000 ≤ off ∧ off ≤ 0x4FF8 then
    some (.tbl (Ch.ofIndex ((off - 0x1000).extractLsb' 12 2)) (TSrc.ofBit (off.extractLsb' 11 1))
      (off.extractLsb' 3 8))
  else none

/-- The register of a valid transaction (R161): 8 bytes wide at an 8-aligned, mapped offset. -/
def validAccess (off : Offset) (size : AccessSize) : Option Reg :=
  if size = .b8 then regAt off else none

/-- `DIGEST[ch]`: the final transform stage's output, no storage (R32, R125). -/
def State.digest (s : State) (ch : Ch) : BitVec ch.width := ch.fx (s.crc ch)

/-- What a valid read of a register returns while the block is idle and not in FAULT (R38, R39, R162); `none` stands for
`any`. -/
def State.readValue (s : State) : Reg → Option Word
  | .cmd => some 0
  | .status => some s.status
  | .addr => some s.addr
  | .len => some s.len
  | .count => some s.count
  | .crc ch => some ((s.crc ch).setWidth 64)
  | .digest ch => some ((s.digest ch).setWidth 64)
  | .tbl ch .rom i => some ((ch.trom i).setWidth 64)
  | .tbl ch .ram i => if s.tvalid ch then some ((s.tram ch i).setWidth 64) else none

/-- What a valid read returns in any state (R162, R166, R167): STATUS is always exact, and every other register reads
`any` in FAULT and while BUSY. -/
def State.readReg (s : State) (r : Reg) : Option Word :=
  if r = .status then some s.status
  else if s.fault then none
  else if s.busy then none
  else s.readValue r

/-- A read returns a value to the host: the exact one, or a free value for `any` (R10). R161 states no width for the `any`
of an invalid read of 1, 2 or 4 bytes; the model returns a free 64-bit word whatever the size (DESIGN CHOICE,
notes/assumptions/20.md). -/
def State.reply (s : State) : Option Word → State
  | some v => { s with reads := s.reads ++ [v] }
  | none => ({ s with reads := s.reads ++ [s.free 0] } : State).drawn 1

/-- `RD(off, size)` (R161, R162, R178): an invalid one returns `any` and, outside FAULT, raises ACCESS. -/
def State.rd (s : State) (off : Offset) (size : AccessSize) : State :=
  match validAccess off size with
  | some r => s.reply (s.readReg r)
  | none => if s.fault then s.reply none else (s.reply none).raise .access

/-- `accept(v)` (R164): an illegal value raises ILLEGAL, a legal one is the command it carries. -/
def State.accept (s : State) (v : Word) : Host.Outcome State Fault Refusal :=
  match decode v with
  | .error _ => .next (s.raise .illegal)
  | .ok i => exec i s

/-- The write effect of a register (R38, R163): CMD accepts a command, ADDR and LEN take the value, and every other
register is read-only. -/
def State.writeReg (s : State) (r : Reg) (v : Word) : Host.Outcome State Fault Refusal :=
  match r with
  | .cmd => s.accept v
  | .addr => .next { s with addr := v }
  | .len => .next { s with len := v }
  | .status => .next (s.raise .access)
  | .count => .next (s.raise .access)
  | .crc _ => .next (s.raise .access)
  | .digest _ => .next (s.raise .access)
  | .tbl _ _ _ => .next (s.raise .access)

/-- `WR(off, size, v)` (R161, R163, R165, R166), in the priority of R178: ignored in FAULT, ACCESS where invalid, BUSY
while busy, and otherwise the register's write effect. -/
def State.wr (s : State) (off : Offset) (size : AccessSize) (v : Word) : Host.Outcome State Fault Refusal :=
  if s.fault then .next s
  else
    match validAccess off size with
    | none => .next (s.raise .access)
    | some r => if s.busy then .next (s.raise .busy) else s.writeReg r v

end Sys2Proof.Machine
end

