-- ==== Sys2Proof/Machine/Sequencer.lean ====
section
/-! DEFINITION. The sequencer's steps (10_state.md R40): the synthesis step (40_table.md R102) and the fold steps
(42_calculate.md R144, R146). -/

namespace Sys2Proof.Machine

/-- What the sequencer does after a synthesis: `seq <- next` (R40, R102). -/
def seqAfterSynth : Option FoldState → Seq
  | none => .idle
  | some f => .fold f

/-- The step of `Synth(ch, next)` (R102), its 256 entry writes taken as one step; "no host read can tell which"
(notes/assumptions/7.md). -/
def State.synthStep (s : State) (ch : Ch) (next : Option FoldState) : State :=
  { (s.setTram ch ch.synthEntry).setTvalid ch true with seq := seqAfterSynth next }

/-- The byte `b` is folded into CRC[ch], COUNT becomes k + 1 and the fold moves to the next byte (R144, R146). -/
def State.foldNext (s : State) (f : FoldState) (b : Byte) : State :=
  { s.foldByte f.ch f.src b with count := f.k + 1, seq := .fold { f with k := f.k + 1 } }

/-- The step of `Fold(ch, tsrc, mode, base, len, k)` (R144 for CALC, R146 for CALCZ). -/
def State.foldStep (s : State) (f : FoldState) : State :=
  if f.k = f.len then { s with seq := .idle }
  else if s.memAdmit f.address then
    let b := s.portByte f.address
    let s := s.issueRead f.address
    if f.mode = .z ∧ b = 0 then { s with seq := .idle } else s.foldNext f b
  else s.raise .bus

/-- One step of the sequencer (R40); an idle one does nothing. -/
def State.seqStep (s : State) : State :=
  match s.seq with
  | .idle => s
  | .synth ch next => s.synthStep ch next
  | .fold f => s.foldStep f

end Sys2Proof.Machine
end

