-- ==== Sys2Proof/Machine/Events.lean ====
section
/-! DEFINITION. What one event of the host or the environment does (00_scope.md R7, 43_host_access.md R160). -/

namespace Sys2Proof.Machine

/-- One read of `poll` (R91): if bit 0 of STATUS reads 1, the sequencer takes a step and the poll goes on
(notes/assumptions/6.md). -/
def State.pollOnce (s : State) : State :=
  let t := s.reply (some s.status)
  if s.status.getLsbD 0 then { t with inputs := .tick :: .poll :: t.inputs } else t

/-- One event, as an atomic step (R160). -/
def State.handle (s : State) : Event → Host.Outcome State Fault Refusal
  | .rd off size => .next (s.rd off size)
  | .wr off size v => s.wr off size v
  | .poll => .next s.pollOnce
  | .tick => .next s.seqStep
  | .reset => .next s.applyReset
  | .memWrite a b => .next (s.memWrite a b)

end Sys2Proof.Machine
end

