-- ==== Sys2Proof/Machine/Pseudo.lean ====
section
/-! DEFINITION. The host-level sequences of 30_encoding.md R91 as the transactions they expand to, one for each entry
point of the source. -/

namespace Sys2Proof.Machine

/-- `rd REG` of the assembly syntax (R90). -/
def rdReg (r : Reg) : Event := .rd (offsetOf r) .b8

/-- `wr REG, VALUE` of the assembly syntax (R90). -/
def wrReg (r : Reg) (v : Word) : Event := .wr (offsetOf r) .b8 v

/-- A command line of a host program: `wr CMD, <its word>` (R90). -/
def wrCmd (i : Instr) : Event := wrReg .cmd (encode i)

/-- The common shape of the buffer forms of R91. -/
def overBuffer (i : Instr) (ch : Ch) (a n : Word) : List Event :=
  [wrReg .addr a, wrReg .len n, wrCmd i, .poll, rdReg (.digest ch)]

/-- `calculate_ram wN, a, n` (R91). -/
def calculateRam (ch : Ch) (a n : Word) : List Event := overBuffer (.calcLen ch .ram) ch a n

/-- `calculate_rom wN, a, n` (R91). -/
def calculateRom (ch : Ch) (a n : Word) : List Event := overBuffer (.calcLen ch .rom) ch a n

/-- `calculate_static wN, a, max` (R91). -/
def calculateStatic (ch : Ch) (a max : Word) : List Event := overBuffer (.calcz ch .rom) ch a max

/-- `calculate_static_seq wN, b0, ..., b(n-1)` (R91). -/
def calculateStaticSeq (ch : Ch) (bs : List Byte) : List Event :=
  wrCmd (.seed ch) :: bs.map (fun b => wrCmd (.update ch .rom b)) ++ [rdReg (.digest ch)]

/-- `calculate_seq_buf wN, a, n` (R91). -/
def calculateSeqBuf (ch : Ch) (a n : Word) : List Event := overBuffer (.calcLen ch .rom) ch a n

end Sys2Proof.Machine
end

