-- ==== Sys2Proof/Machine/Step.lean ====
section
/-! DEFINITION. One step of the whole machine (00_scope.md R7, 43_host_access.md R160): the next event of the host and
the environment, or, where none is waiting, a step of the sequencer. -/

namespace Sys2Proof.Machine

/-- One step. With nothing waiting the sequencer moves, which is the weak fairness of R206; an idle block keeps all its
state (R187). -/
def step (s : State) : Host.Outcome State Fault Refusal :=
  match s.inputs with
  | [] => .next s.seqStep
  | e :: rest => State.handle { s with inputs := rest } e

/-- `s` with the command whose bits are `w` as the host's very next transaction, a 64-bit write to CMD: ZCRC-CORE fetches
nothing, and "the CMD write itself carries each command" (R41, R74; notes/assumptions/8.md). -/
def State.withFetchWord (s : State) (nbits w : Nat) : State :=
  { s with inputs := .wr (offsetOf .cmd) .b8 (BitVec.ofNat 64 (w % 2 ^ nbits)) :: s.inputs }

end Sys2Proof.Machine
end

