-- ==== Sys2Proof/Safety.lean ====
section
/-! DEFINITION. The terms claims use: the invariant of the block, what a step leaves unchanged, the end of a host program
and a run without an error (70_reset_and_hazards.md R207), and commands carried out one after another. -/

namespace Sys2Proof

/-- The channel a command addresses; NOP addresses none (R82, R85). -/
def Instr.channel : Instr → Option Ch
  | .nop => none
  | .seed ch => some ch
  | .synth ch => some ch
  | .update ch _ _ => some ch
  | .calcLen ch _ => some ch
  | .calcz ch _ => some ch

/-- The event is a transaction of the host (R160): an RD, a WR, or a poll, which is a sequence of RDs (R91). The
sequencer's turns, reset and other agents' writes are none. -/
def Event.isTransaction : Event → Bool
  | .rd _ _ => true
  | .wr _ _ _ => true
  | .poll => true
  | .tick => false
  | .reset => false
  | .memWrite _ _ => false

end Sys2Proof

namespace Sys2Proof.Machine

/-! ### The invariant -/

/-- STATUS.FAULT is 1 exactly when an error is recorded, and the sequencer is then Idle (R36, R176). -/
def State.FaultConsistent (s : State) : Prop :=
  (s.fault = true ↔ s.err ≠ .none) ∧ (s.fault = true → s.seq = .idle)

/-- Table equivalence: a valid TRAM equals TROM, entry by entry (R106). -/
def State.TableConsistent (s : State) : Prop :=
  ∀ ch i, s.tvalid ch = true → s.tram ch i = ch.trom i

/-- A latched fold is one that R68 lets through, and its index lies in it (R40). -/
def FoldState.InRange (f : FoldState) : Prop :=
  f.k.toNat ≤ f.len.toNat ∧ (f.len = 0 ∨ f.base.toNat + f.len.toNat ≤ 2 ^ 64)

/-- The sequencer's own state agrees with TVALID and COUNT: a synthesis runs under TVALID 0 (R26) and leads only to a fold
of its own channel on TRAM that has read nothing (R143); a fold on TRAM runs under TVALID 1 (R107); COUNT is the number
of bytes folded (R30). -/
def State.SeqConsistent (s : State) : Prop :=
  match s.seq with
  | .idle => True
  | .synth ch none => s.tvalid ch = false
  | .synth ch (some f) =>
    s.tvalid ch = false ∧ f.ch = ch ∧ f.src = .ram ∧ f.k = 0 ∧ f.InRange ∧ s.count = 0
  | .fold f => (f.src = .ram → s.tvalid f.ch = true) ∧ f.InRange ∧ s.count = f.k

/-- The invariant of the block. -/
structure State.Inv (s : State) : Prop where
  memory : Memory.wf s.mem = true
  faults : s.FaultConsistent
  tables : s.TableConsistent
  sequencer : s.SeqConsistent

/-! ### What a step leaves unchanged -/

/-- Every channel but `ch` is unchanged. -/
def State.SameChannelsBut (s t : State) (ch : Ch) : Prop := ∀ c, c ≠ ch → t.chan c = s.chan c

/-- Every channel is unchanged: CRC, TRAM and TVALID. -/
def State.SameChannels (s t : State) : Prop := ∀ c, t.chan c = s.chan c

/-- The table of channel `ch` is unchanged: TVALID and every entry of TRAM. -/
def State.SameTable (s t : State) (ch : Ch) : Prop :=
  t.tvalid ch = s.tvalid ch ∧ ∀ i, t.tram ch i = s.tram ch i

/-- ADDR and LEN are unchanged. -/
def State.SameAddrLen (s t : State) : Prop := t.addr = s.addr ∧ t.len = s.len

/-- FAULT, ERR and the sequencer's state, and so BUSY, are unchanged. -/
def State.SameControl (s t : State) : Prop := t.fault = s.fault ∧ t.err = s.err ∧ t.seq = s.seq

/-- Memory is unchanged, every byte of it, and so is what the platform admits. -/
def State.SameMemory (s t : State) : Prop :=
  t.mem = s.mem ∧ t.admitMap = s.admitMap ∧ ∀ a, t.memByte a = s.memByte a ∧ t.memAdmit a = s.memAdmit a

/-- The read port has issued no read. -/
def State.NoRead (s t : State) : Prop := t.portReads = s.portReads

/-- Nothing is changed on the host's side and nothing has been drawn. -/
def State.SameHost (s t : State) : Prop := t.inputs = s.inputs ∧ t.reads = s.reads ∧ t.draws = s.draws

/-! ### Runs -/

/-- The end of a host program (R207): the host has issued its last transaction, whatever the other agents still do, and the
sequencer is Idle. The program's result is `State.reads`. -/
def State.Ended (s : State) : Prop := (∀ e ∈ s.inputs, e.isTransaction = false) ∧ s.seq = .idle

/-- A program has ended without an error: STATUS.FAULT = 0 at its end, which R207 asks of a claim about a program. -/
def State.EndedWithoutError (s : State) : Prop := s.Ended ∧ s.fault = false

/-- The platform admits every byte that the running command may still read (R61). -/
def State.AdmitsRest (s : State) : Prop :=
  ∀ f : FoldState, s.seq = .fold f ∨ (∃ ch, s.seq = .synth ch (some f)) →
    ∀ k : Nat, f.k.toNat ≤ k → k < f.len.toNat → s.memAdmit (f.base + BitVec.ofNat 64 k) = true

/-- The block takes commands: it is neither in FAULT nor BUSY (R164). -/
def State.Accepts (s : State) : Prop := s.fault = false ∧ s.busy = false

/-- R68 lets the buffer of ADDR and LEN through: LEN is 0, or the range does not wrap past 2^64 - 1. -/
def State.RangeOk (s : State) : Prop := s.len = 0 ∨ s.addr.toNat + s.len.toNat ≤ 2 ^ 64

/-- The first `n` bytes of the buffer may be read (R61, R199). -/
def State.AdmitsFirst (s : State) (n : Nat) : Prop :=
  ∀ k : Nat, k < n → s.memAdmit (s.addr + BitVec.ofNat 64 k) = true

/-- The commands of a list one after another, stopping at a fault or a refusal. -/
def execAll : List Instr → State → Host.Outcome State Fault Refusal
  | [], s => .next s
  | i :: is, s =>
    match exec i s with
    | .next t => execAll is t
    | .fault r => .fault r
    | .refused r => .refused r

/-- `n` steps of the machine, stopping at a fault or a refusal. -/
def run : Nat → State → Host.Outcome State Fault Refusal
  | 0, s => .next s
  | n + 1, s =>
    match step s with
    | .next t => run n t
    | .fault r => .fault r
    | .refused r => .refused r

/-- The Synth steps of a buffer command: one where TSRC selects TRAM (R143, R206). -/
def synthSteps : TSrc → Nat
  | .rom => 0
  | .ram => 1

end Sys2Proof.Machine
end

