-- ==== Sys2Proof/Certificates/Slice0/Obligations.lean ====
section
/-! DEFINITION. The statements for the provers, in the order of OBLIGATIONS.json: encoding, arithmetic, the commands, the
sequencer, whole buffer commands, host access, errors, reset, and the rules of the whole machine. -/

open Sys2Proof Sys2Proof.Machine

/-! ### Encoding -/

/-- R86: encoding a well-formed command and decoding the word gives the command back, every operand at every value. -/
def Obligations.DecodeInvertsEncode : Prop :=
  ∀ i : Instr, i.wf = true → decode (encode i) = .ok i

/-- R86: a value that decodes is the word of the command it decodes to, so every bit of a legal value has its meaning and
no two values carry one command. -/
def Obligations.EncodeInvertsDecode : Prop :=
  ∀ (v : Word) (i : Instr), decode v = .ok i → encode i = v

/-- R87, item by item: when a CMD write value is illegal; that accepting it raises ILLEGAL and changes nothing else; and
that a value is legal exactly when its high half is 0 and its low half matches a row of R86. -/
def Obligations.IllegalValuesAreThoseOfR87 : Prop :=
  ∀ v : Word,
    ((∃ e, decode v = .error e) ↔
      (v.extractLsb' 32 32 ≠ 0 ∨ v.extractLsb' 7 1 ≠ 0 ∨ v.extractLsb' 16 16 ≠ 0
        ∨ 6 ≤ (v.extractLsb' 0 4).toNat
        ∨ (v.extractLsb' 0 4 ∈ [0x0#4, 0x1#4, 0x2#4] ∧ v.extractLsb' 6 1 ≠ 0)
        ∨ (v.extractLsb' 0 4 ∈ [0x0#4, 0x1#4, 0x2#4, 0x4#4, 0x5#4] ∧ v.extractLsb' 8 8 ≠ 0)
        ∨ (v.extractLsb' 0 4 = 0x0#4 ∧ v.extractLsb' 4 2 ≠ 0))) ∧
    ((∃ i, decode v = .ok i) ↔
      (v.extractLsb' 32 32 = 0 ∧ ∃ r ∈ opcodeRows, r.selects (v.extractLsb' 0 32) = true)) ∧
    ∀ s : State, s.Accepts → (∃ e, decode v = .error e) →
      s.accept v = .next { s with fault := true, err := .illegal }

/-- R86: no two rows match the same word, and a legal value matches the row of the command it decodes to. -/
def Obligations.OpcodeRowsAreDisjoint : Prop :=
  (∀ c : BitVec 32, ∀ r ∈ opcodeRows, ∀ r' ∈ opcodeRows,
    r.selects c = true → r'.selects c = true → r = r') ∧
  ∀ (v : Word) (i : Instr), decode v = .ok i →
    ∃ r ∈ opcodeRows, r.mnemonic = i.mnemonic ∧ r.selects (v.extractLsb' 0 32) = true

/-- Words of 95_test_vectors.md section 2.7, one per row of the opcode table at least, decode to their commands, and words
listed there as illegal do not decode. -/
def Obligations.ListedWordsDecode : Prop :=
  decode 0x0 = .ok .nop ∧ decode 0x21 = .ok (.seed .w32) ∧ decode 0x32 = .ok (.synth .w64) ∧
  decode 0x6263 = .ok (.update .w32 .ram 0x62) ∧ decode 0xC173 = .ok (.update .w64 .ram 0xC1) ∧
  decode 0x54 = .ok (.calcLen .w16 .ram) ∧ decode 0x25 = .ok (.calcz .w32 .rom) ∧
  decode 0x6 = .error .reservedOp ∧ decode 0x10 = .error .chNotZero ∧ decode 0x41 = .error .tsrcNotZero ∧
  decode 0x104 = .error .immNotZero ∧ decode 0x83 = .error .bit7 ∧ decode 0x10003 = .error .reservedBits ∧
  decode 0x100000001 = .error .highBits

/-- R38, R39: every register of the window stands at its own offset, and every mapped offset is that of one register. -/
def Obligations.RegisterMapIsOneToOne : Prop :=
  (∀ r : Reg, regAt (offsetOf r) = some r) ∧ ∀ (off : Offset) (r : Reg), regAt off = some r → offsetOf r = off

/-! ### The arithmetic -/

/-- R101: the table does not depend on any state, and the five laws of its entries. -/
def Obligations.TableEntriesAreLinear : Prop :=
  (∀ (ch : Ch) (s s' : State) (i : Byte),
    (s.synthStep ch none).tram ch i = (s'.synthStep ch none).tram ch i) ∧
  (∀ ch : Ch, ch.synthEntry 0 = 0) ∧
  (∀ (ch : Ch) (a b : Byte), ch.synthEntry (a ^^^ b) = ch.synthEntry a ^^^ ch.synthEntry b) ∧
  (Ch.w8.synthEntry 1 = 0x07 ∧ Ch.w16.synthEntry 1 = 0x1021) ∧
  (Ch.w32.synthEntry 0x80 = 0xEDB88320 ∧ Ch.w64.synthEntry 0x80 = 0x95AC9329AC4BC9B5) ∧
  (∀ (ch : Ch) (a b : Byte), ch.synthEntry a = ch.synthEntry b → a = b)

/-- R120, width by width, with the index written out; at width 8 the shift-left term vanishes. -/
def Obligations.UpdateFormulaPerWidth : Prop :=
  (∀ (r : BitVec 8) (T : Byte → BitVec 8) (b : Byte), Ch.w8.update r T b = T (r ^^^ b)) ∧
  (∀ (r : BitVec 16) (T : Byte → BitVec 16) (b : Byte),
    Ch.w16.update r T b = T ((r >>> 8).setWidth 8 ^^^ b) ^^^ (r <<< 8)) ∧
  (∀ (r : BitVec 32) (T : Byte → BitVec 32) (b : Byte),
    Ch.w32.update r T b = T ((r ^^^ b.setWidth 32).setWidth 8) ^^^ (r >>> 8)) ∧
  (∀ (r : BitVec 64) (T : Byte → BitVec 64) (b : Byte),
    Ch.w64.update r T b = T ((r ^^^ b.setWidth 64).setWidth 8) ^^^ (r >>> 8))

/-- R121: the final transform is the identity but for width 32, where it complements. -/
def Obligations.FinalTransformPerWidth : Prop :=
  (∀ r, Ch.w8.fx r = r) ∧ (∀ r, Ch.w16.fx r = r) ∧
  (∀ r, Ch.w32.fx r = r ^^^ 0xFFFFFFFF) ∧ (∀ r, Ch.w64.fx r = r)

/-- R126: an update by the table is eight shift-and-conditional-XOR steps on the register with the byte placed in it. -/
def Obligations.UpdateEqualsBitSerial : Prop :=
  ∀ (ch : Ch) (r : BitVec ch.width) (b : Byte), ch.update r ch.trom b = ch.bitwise r b

/-- R141: the digest of the empty input. -/
def Obligations.EmptyInputDigest : Prop :=
  (∀ ch : Ch, ch.calculate [] = ch.fx ch.init) ∧
  Ch.w8.calculate [] = 0x00 ∧ Ch.w16.calculate [] = 0xFFFF ∧ Ch.w32.calculate [] = 0x00000000 ∧
  Ch.w64.calculate [] = 0xFFFFFFFFFFFFFFFF

/-- R150: the two static evaluators give `calculate`, of the bytes before the first 0x00 and of the listed bytes. -/
def Obligations.StaticEvaluatorsEqualCalculate : Prop :=
  (∀ (ch : Ch) (bs : List Byte), 0 ∈ bs → ch.staticA bs = some (ch.calculate (beforeZero bs))) ∧
  ∀ (ch : Ch) (bs : List Byte), ch.staticB bs = ch.calculate bs

/-! ### The commands at acceptance -/

/-- R122: an accepted NOP leaves the whole state unchanged. -/
def Obligations.NopChangesNothing : Prop :=
  ∀ s : State, s.Accepts → exec .nop s = .next s

/-- R123: an accepted SEED loads INIT into CRC[ch], DIGEST_ch then reads the empty-input digest, and nothing else
changes. -/
def Obligations.SeedLoadsInitialValue : Prop :=
  ∀ (ch : Ch) (s : State), s.Accepts →
    ∃ t, exec (.seed ch) s = .next t ∧
      t.crc ch = ch.init ∧ t.digest ch = ch.calculate [] ∧ s.SameTable t ch ∧ s.SameChannelsBut t ch ∧
      s.SameAddrLen t ∧ t.count = s.count ∧ s.SameControl t ∧ s.SameMemory t ∧ s.NoRead t ∧ s.SameHost t

/-- R124: an accepted UPDATE folds its byte into CRC[ch] through the table TSRC selects, and nothing else changes. -/
def Obligations.UpdateFoldsOneByte : Prop :=
  ∀ (ch : Ch) (src : TSrc) (imm : Byte) (s : State), s.Accepts → (src = .ram → s.tvalid ch = true) →
    ∃ t, exec (.update ch src imm) s = .next t ∧
      t.crc ch = ch.update (s.crc ch) (match src with | .rom => ch.trom | .ram => s.tram ch) imm ∧
      s.SameTable t ch ∧ s.SameChannelsBut t ch ∧
      s.SameAddrLen t ∧ t.count = s.count ∧ s.SameControl t ∧ s.SameMemory t ∧ s.NoRead t ∧ s.SameHost t

/-- R124, R202: UPDATE on TRAM without a valid table raises NOTABLE and changes nothing but FAULT and ERR. -/
def Obligations.UpdateWithoutTableRaisesNotable : Prop :=
  ∀ (ch : Ch) (imm : Byte) (s : State), s.Accepts → s.tvalid ch = false →
    exec (.update ch .ram imm) s = .next { s with fault := true, err := .notable }

/-- R107, R124: under table equivalence an accepted UPDATE gives the same state whichever table it uses. -/
def Obligations.UpdateIgnoresTableSource : Prop :=
  ∀ (ch : Ch) (imm : Byte) (s : State), s.Accepts → s.TableConsistent → s.tvalid ch = true →
    ∃ t, exec (.update ch .rom imm) s = .next t ∧ exec (.update ch .ram imm) s = .next t ∧
      t.crc ch = ch.bitwise (s.crc ch) imm

/-- R102: an accepted SYNTH clears TVALID[ch] and sets BUSY; the sequencer's step then fills TRAM[ch] with the synthesized
entries, sets TVALID[ch] and is Idle; nothing else changes at either. That the 256 entry writes are one step, and that the
sequencer moves when no event waits, is the model's choice (notes/assumptions/7.md, 9.md). -/
def Obligations.SynthFillsTable : Prop :=
  ∀ (ch : Ch) (s : State), s.Accepts → s.inputs = [] →
    ∃ t u, exec (.synth ch) s = .next t ∧ step t = .next u ∧
      (t.tvalid ch = false ∧ t.busy = true ∧ t.fault = false ∧ t.err = s.err ∧ t.crc ch = s.crc ch) ∧
      ((∀ i, t.tram ch i = s.tram ch i) ∧ s.SameChannelsBut t ch ∧ s.SameAddrLen t ∧ t.count = s.count ∧
        s.SameMemory t ∧ s.NoRead t ∧ s.SameHost t) ∧
      (u.tvalid ch = true ∧ (∀ i, u.tram ch i = ch.synthEntry i) ∧ u.crc ch = s.crc ch) ∧
      (s.SameChannelsBut u ch ∧ s.SameAddrLen u ∧ u.count = s.count ∧ s.SameControl u ∧ s.SameMemory u ∧
        s.NoRead u ∧ s.SameHost u)

/-- R142, R145, R143: an accepted CALC or CALCZ whose range does not wrap loads INIT, clears COUNT, latches ADDR and LEN
into its fold, and is BUSY, with the synthesis first where TSRC = 1; nothing else changes. -/
def Obligations.BufferCommandsStart : Prop :=
  ∀ (ch : Ch) (src : TSrc) (i : Instr) (mode : FoldMode) (s : State),
    (i = .calcLen ch src ∧ mode = .len) ∨ (i = .calcz ch src ∧ mode = .z) → s.Accepts → s.RangeOk →
    ∃ t, exec i s = .next t ∧
      t.crc ch = ch.init ∧ t.count = 0 ∧ t.busy = true ∧ t.fault = false ∧ t.err = s.err ∧
      t.seq = (match src with
        | .rom => .fold ⟨ch, .rom, mode, s.addr, s.len, 0⟩
        | .ram => .synth ch (some ⟨ch, .ram, mode, s.addr, s.len, 0⟩)) ∧
      (t.tvalid ch = match src with | .rom => s.tvalid ch | .ram => false) ∧
      (∀ i, t.tram ch i = s.tram ch i) ∧ s.SameChannelsBut t ch ∧ s.SameAddrLen t ∧ s.SameMemory t ∧
      s.NoRead t ∧ s.SameHost t

/-- R68, R142, R145: a CALC or CALCZ whose range wraps raises RANGE at acceptance, reads nothing and changes nothing but
FAULT and ERR. -/
def Obligations.WrappingRangeRaisesRange : Prop :=
  ∀ (ch : Ch) (src : TSrc) (s : State), s.Accepts → s.len ≠ 0 → 2 ^ 64 < s.addr.toNat + s.len.toNat →
    exec (.calcLen ch src) s = .next { s with fault := true, err := .range } ∧
    exec (.calcz ch src) s = .next { s with fault := true, err := .range }

/-- R163, R165: in the FAULT state every command is ignored. -/
def Obligations.CommandsInFaultAreIgnored : Prop :=
  ∀ (i : Instr) (s : State), s.fault = true → exec i s = .next s

/-- R166, R177: every command written while BUSY raises BUSY, abandons the running command, and leaves ADDR, LEN and every
channel the running command does not use unchanged. That an abort in the fold phase leaves the channel's table alone
is the model's reading of R177 (DEDUCED, notes/assumptions/11.md). -/
def Obligations.CommandsWhileBusyRaiseBusy : Prop :=
  ∀ (i : Instr) (s : State), s.fault = false → s.busy = true →
    ∃ t, exec i s = .next t ∧ t.fault = true ∧ t.err = .busy ∧ t.seq = .idle ∧ t.busy = false ∧
      s.SameAddrLen t ∧ s.SameMemory t ∧ s.NoRead t ∧ (∀ c, t.tvalid c = s.tvalid c) ∧
      (∀ ch n, s.seq = .synth ch n → s.SameChannelsBut t ch) ∧
      (∀ f, s.seq = .fold f → s.SameChannelsBut t f.ch ∧ s.SameTable t f.ch)

/-- R123, R124, R140: SEED and then one UPDATE per byte, from either table once it is valid, folds the bytes in order: the
digest is `calculate` of them. -/
def Obligations.SeedThenUpdatesComputeDigest : Prop :=
  ∀ (ch : Ch) (bs : List (TSrc × Byte)) (s : State), s.Accepts → s.TableConsistent →
    ((∃ b, (.ram, b) ∈ bs) → s.tvalid ch = true) →
    ∃ t, execAll (.seed ch :: bs.map fun p => .update ch p.1 p.2) s = .next t ∧
      t.digest ch = ch.calculate (bs.map (·.2)) ∧ t.count = s.count ∧ t.busy = false ∧ s.SameTable t ch ∧
      s.SameChannelsBut t ch ∧ s.SameAddrLen t ∧ s.SameMemory t

/-! ### The sequencer -/

/-- R144: one fold step of CALC: completion at k = len, BUS where the byte is not admitted, and otherwise the byte stored
at base + k is folded, COUNT becomes k + 1 and the fold moves on. The byte has not been written by another agent since
the command was accepted (R70). That the BUS error leaves the channel's table alone is the model's reading of R177 (DEDUCED,
notes/assumptions/11.md). -/
def Obligations.CalcFoldStep : Prop :=
  ∀ (s : State) (f : FoldState), s.inputs = [] → s.seq = .fold f → f.mode = .len →
    (f.k = f.len → step s = .next { s with seq := .idle }) ∧
    (f.k ≠ f.len → s.memAdmit (f.base + f.k) = false →
      ∃ t, step s = .next t ∧ t.fault = true ∧ t.err = .bus ∧ t.seq = .idle ∧ s.SameTable t f.ch ∧
        s.SameChannelsBut t f.ch ∧ s.SameAddrLen t ∧ s.SameMemory t ∧ s.NoRead t) ∧
    (f.k ≠ f.len → s.memAdmit (f.base + f.k) = true → f.base + f.k ∉ s.raced →
      ∃ t, step s = .next t ∧
        t.crc f.ch = f.ch.update (s.crc f.ch) (s.table f.ch f.src) (s.memByte (f.base + f.k)) ∧
        t.count = f.k + 1 ∧ t.seq = .fold { f with k := f.k + 1 } ∧
        t.portReads = s.portReads ++ [f.base + f.k] ∧ t.fault = s.fault ∧ t.err = s.err ∧
        s.SameTable t f.ch ∧ s.SameChannelsBut t f.ch ∧ s.SameAddrLen t ∧ s.SameMemory t ∧ s.SameHost t)

/-- R146: one fold step of CALCZ: as CALC's, and a 0x00 byte is read, ends the fold, and is neither folded nor counted. The
byte has not been written by another agent since the command was accepted (RacedReadFoldsSomeByte is about one that has).
That the BUS error leaves the channel's table alone is the model's reading of R177 (DEDUCED, notes/assumptions/11.md). -/
def Obligations.CalczFoldStep : Prop :=
  ∀ (s : State) (f : FoldState), s.inputs = [] → s.seq = .fold f → f.mode = .z →
    (f.k = f.len → step s = .next { s with seq := .idle }) ∧
    (f.k ≠ f.len → s.memAdmit (f.base + f.k) = false →
      ∃ t, step s = .next t ∧ t.fault = true ∧ t.err = .bus ∧ t.seq = .idle ∧ s.SameTable t f.ch ∧
        s.SameChannelsBut t f.ch ∧ s.SameAddrLen t ∧ s.SameMemory t ∧ s.NoRead t) ∧
    (f.k ≠ f.len → s.memAdmit (f.base + f.k) = true → f.base + f.k ∉ s.raced →
      s.memByte (f.base + f.k) = 0 →
      step s = .next { s with seq := .idle, portReads := s.portReads ++ [f.base + f.k] }) ∧
    (f.k ≠ f.len → s.memAdmit (f.base + f.k) = true → f.base + f.k ∉ s.raced →
      s.memByte (f.base + f.k) ≠ 0 →
      ∃ t, step s = .next t ∧
        t.crc f.ch = f.ch.update (s.crc f.ch) (s.table f.ch f.src) (s.memByte (f.base + f.k)) ∧
        t.count = f.k + 1 ∧ t.seq = .fold { f with k := f.k + 1 } ∧
        t.portReads = s.portReads ++ [f.base + f.k] ∧ t.fault = s.fault ∧ t.err = s.err ∧
        s.SameTable t f.ch ∧ s.SameChannelsBut t f.ch ∧ s.SameAddrLen t ∧ s.SameMemory t ∧ s.SameHost t)

/-- R70: a byte that another agent writes while a command runs is stored, and noted as raced; the running fold's read of a
raced byte draws a free byte, which need not be the stored one, and the fold goes on with it: CALC folds it, and CALCZ ends
at it where it is 0x00 and folds it otherwise. The form is the model's (DESIGN CHOICE, notes/assumptions/5.md), and the
statement holds whatever the free byte is. -/
def Obligations.RacedReadFoldsSomeByte : Prop :=
  (∀ (s : State) (a : Addr) (x : Byte) (rest : List Event), s.busy = true → s.inputs = .memWrite a x :: rest →
    ∃ t, step s = .next t ∧ t.memByte a = x ∧ a ∈ t.raced ∧ t.inputs = rest ∧ t.draws = s.draws ∧
      s.SameChannels t ∧ s.SameControl t ∧ s.SameAddrLen t ∧ t.count = s.count ∧ s.NoRead t) ∧
  ∀ (t : State) (f : FoldState) (rest : List Event), t.seq = .fold f → f.k ≠ f.len →
    t.memAdmit (f.base + f.k) = true → f.base + f.k ∈ t.raced → t.inputs = .tick :: rest →
    t.portByte (f.base + f.k) = (t.free 0).setWidth 8 ∧
    ∃ u, step t = .next u ∧ u.portReads = t.portReads ++ [f.base + f.k] ∧ u.draws = t.draws + 1 ∧
      (f.mode = .z ∧ (t.free 0).setWidth 8 = (0 : Byte) →
        u.seq = .idle ∧ u.crc f.ch = t.crc f.ch ∧ u.count = t.count) ∧
      (¬(f.mode = .z ∧ (t.free 0).setWidth 8 = (0 : Byte)) →
        u.crc f.ch = f.ch.update (t.crc f.ch) (t.table f.ch f.src) ((t.free 0).setWidth 8) ∧
        u.count = f.k + 1 ∧ u.seq = .fold { f with k := f.k + 1 }) ∧
      u.fault = t.fault ∧ u.err = t.err ∧ u.inputs = rest ∧ u.reads = t.reads ∧
      t.SameTable u f.ch ∧ t.SameChannelsBut u f.ch ∧ t.SameAddrLen u ∧ t.SameMemory u

/-- R147: CALC and CALCZ, at acceptance and at every sequencer step, change no channel but their own, neither ADDR nor LEN,
and no memory; without TSRC = 1 they leave their own TRAM and TVALID alone, and a fold step leaves them alone on either
table. The last clause, where the step is a BUS error of a fold on TRAM, is the model's reading of R177 (DEDUCED,
notes/assumptions/11.md) and more than R147 says. -/
def Obligations.BufferCommandsTouchOneChannel : Prop :=
  (∀ (ch : Ch) (src : TSrc) (i : Instr) (s t : State), i = .calcLen ch src ∨ i = .calcz ch src →
    s.Accepts → exec i s = .next t →
    s.SameChannelsBut t ch ∧ s.SameAddrLen t ∧ s.SameMemory t ∧ (src = .rom → s.SameTable t ch)) ∧
  (∀ (ch : Ch) (f : FoldState) (s : State), s.seq = .synth ch (some f) →
    s.SameChannelsBut s.seqStep ch ∧ s.SameAddrLen s.seqStep ∧ s.SameMemory s.seqStep ∧
      s.seqStep.crc ch = s.crc ch ∧ s.seqStep.count = s.count) ∧
  ∀ (f : FoldState) (s : State), s.seq = .fold f →
    s.SameChannelsBut s.seqStep f.ch ∧ s.SameAddrLen s.seqStep ∧ s.SameMemory s.seqStep ∧
      s.SameTable s.seqStep f.ch

/-- R206, R34: from a state of the invariant with no event waiting, a sequencer that is not Idle becomes Idle, after at most
one step for SYNTH, LEN + 2 for a buffer command that still synthesizes, and LEN - k + 1 for a fold (a synthesis is one step
by the model's choice, notes/assumptions/7.md). -/
def Obligations.SequencerFinishes : Prop :=
  ∀ s : State, s.Inv → s.inputs = [] →
    ∃ n u, run n s = .next u ∧ u.seq = .idle ∧ u.busy = false ∧
      n ≤ (match s.seq with
        | .idle => 0
        | .synth _ none => 1
        | .synth _ (some f) => f.len.toNat + 2
        | .fold f => f.len.toNat - f.k.toNat + 1)

/-! ### Whole buffer commands -/

/-- R144, R206, R69: with no other event, CALC over an admitted buffer of LEN bytes is BUSY for exactly LEN + 1 fold steps
(and one synthesis step where TSRC = 1), reads exactly the bytes ADDR .. ADDR + LEN - 1 once each in ascending order, and
leaves the fold of them in CRC[ch], `calculate` of them in DIGEST_ch and LEN in COUNT. (That the synthesis is one step and
that the sequencer moves when no event waits is the model's choice, notes/assumptions/7.md, 9.md.) -/
def Obligations.CalcComputesDigest : Prop :=
  ∀ (ch : Ch) (src : TSrc) (s : State), s.Accepts → s.inputs = [] → s.RangeOk → s.AdmitsFirst s.len.toNat →
    ∃ t u, exec (.calcLen ch src) s = .next t ∧
      (∀ m, m < s.len.toNat + 1 + synthSteps src → ∃ w, run m t = .next w ∧ w.busy = true) ∧
      run (s.len.toNat + 1 + synthSteps src) t = .next u ∧
      u.busy = false ∧ u.fault = false ∧
      u.crc ch = ch.foldBytes ch.init s.buffer ∧ u.digest ch = ch.calculate s.buffer ∧ u.count = s.len ∧
      u.portReads = s.portReads ++ s.bufferAddrs ∧ (src = .ram → u.tvalid ch = true) ∧
      s.SameChannelsBut u ch ∧ s.SameAddrLen u ∧ s.SameMemory u ∧ s.SameHost u

/-- R146, R206, R69: with no other event, CALCZ folds the bytes before the first 0x00 of the buffer, or all LEN of them
where there is none, reads no byte after the terminator, and leaves their number m in COUNT after m + 1 fold steps (the
synthesis, where TSRC = 1, being one step and the sequencer moving when no event waits, by the model's choice,
notes/assumptions/7.md, 9.md). -/
def Obligations.CalczComputesDigest : Prop :=
  ∀ (ch : Ch) (src : TSrc) (s : State) (m : Nat), s.Accepts → s.inputs = [] → s.RangeOk →
    m = (beforeZero s.buffer).length → s.AdmitsFirst (min (m + 1) s.len.toNat) →
    ∃ t u, exec (.calcz ch src) s = .next t ∧
      (∀ n, n < m + 1 + synthSteps src → ∃ w, run n t = .next w ∧ w.busy = true) ∧
      run (m + 1 + synthSteps src) t = .next u ∧
      u.busy = false ∧ u.fault = false ∧
      u.crc ch = ch.foldBytes ch.init (beforeZero s.buffer) ∧
      u.digest ch = ch.calculate (beforeZero s.buffer) ∧ u.count = BitVec.ofNat 64 m ∧
      u.portReads = s.portReads ++ s.bufferAddrs.take (m + 1) ∧ (src = .ram → u.tvalid ch = true) ∧
      s.SameChannelsBut u ch ∧ s.SameAddrLen u ∧ s.SameMemory u ∧ s.SameHost u

/-- R179, R61: a CALC whose byte j is the first one not admitted reads the j bytes before it, raises BUS at it, and reads
none of the later bytes. (That a synthesis is one step and that the sequencer moves when no event waits is the model's choice,
notes/assumptions/7.md, 9.md.) -/
def Obligations.CalcStopsAtFirstRefusedByte : Prop :=
  ∀ (ch : Ch) (src : TSrc) (s : State) (j : Nat), s.Accepts → s.inputs = [] → s.RangeOk → j < s.len.toNat →
    s.AdmitsFirst j → s.memAdmit (s.addr + BitVec.ofNat 64 j) = false →
    ∃ t u, exec (.calcLen ch src) s = .next t ∧ run (j + 1 + synthSteps src) t = .next u ∧
      u.fault = true ∧ u.err = .bus ∧ u.seq = .idle ∧ u.portReads = s.portReads ++ s.bufferAddrs.take j ∧
      (∀ n, run n u = .next u) ∧ s.SameChannelsBut u ch ∧ s.SameAddrLen u ∧ s.SameMemory u

/-- R151: CALC on either table over a buffer of the bytes, SEED with one UPDATE per byte, and, where no byte is 0x00, CALCZ
on either table over the bytes with a 0x00 after them within the bound (or with the bound right after them), all give the
digest `calculate` of the bytes. -/
def Obligations.StrategiesAgree : Prop :=
  ∀ (ch : Ch) (s : State) (bs : List Byte), s.Accepts → s.inputs = [] → s.RangeOk → s.AdmitsFirst s.len.toNat →
    s.TableConsistent →
    ((∀ src, s.buffer = bs → ∃ n t u, exec (.calcLen ch src) s = .next t ∧ run n t = .next u ∧ u.busy = false ∧
      u.fault = false ∧ u.digest ch = ch.calculate bs)) ∧
    ((∀ src, s.buffer = bs ∨ (∃ rest, s.buffer = bs ++ 0 :: rest) → 0 ∉ bs →
      ∃ n t u, exec (.calcz ch src) s = .next t ∧ run n t = .next u ∧ u.busy = false ∧
        u.fault = false ∧ u.digest ch = ch.calculate bs)) ∧
    (∀ src : TSrc, (src = .ram → s.tvalid ch = true) →
      ∃ u, execAll (.seed ch :: bs.map (.update ch src)) s = .next u ∧ u.digest ch = ch.calculate bs)

/-- R152: two CALC commands on one channel over equal bytes give the same digest, whatever their tables, the addresses of
their buffers, what ran before and what the other channels hold; so do two CALCZ commands whose bytes before the first 0x00
are equal. -/
def Obligations.DigestDependsOnBytesOnly : Prop :=
  ∀ (ch : Ch) (src src' : TSrc) (s s' t t' u u' : State) (n n' : Nat),
    s.Accepts → s'.Accepts → s.inputs = [] → s'.inputs = [] → s.RangeOk → s'.RangeOk →
    s.AdmitsFirst s.len.toNat → s'.AdmitsFirst s'.len.toNat →
    (s.buffer = s'.buffer ∧ exec (.calcLen ch src) s = .next t ∧ exec (.calcLen ch src') s' = .next t') ∨
      (beforeZero s.buffer = beforeZero s'.buffer ∧ exec (.calcz ch src) s = .next t ∧
        exec (.calcz ch src') s' = .next t') →
    run n t = .next u → u.busy = false → run n' t' = .next u' → u'.busy = false →
    u.digest ch = u'.digest ch ∧ u.crc ch = u'.crc ch ∧ u.count = u'.count

/-! ### Host access -/

/-- R33, R37: the fields of STATUS at their bits, reserved bits 0, and a read of STATUS returns them, in every state. -/
def Obligations.StatusFieldsAtTheirBits : Prop :=
  ∀ s : State,
    s.status.getLsbD 0 = s.busy ∧ s.status.getLsbD 1 = s.fault ∧ s.status.extractLsb' 2 2 = 0 ∧
    s.status.extractLsb' 4 4 = s.err.code ∧
    (s.status.getLsbD 8 = s.tvalid .w8 ∧ s.status.getLsbD 9 = s.tvalid .w16 ∧
      s.status.getLsbD 10 = s.tvalid .w32 ∧ s.status.getLsbD 11 = s.tvalid .w64) ∧
    s.status.extractLsb' 12 52 = 0 ∧
    s.rd 0x0008 .b8 = { s with reads := s.reads ++ [s.status] }

/-- R162: what a valid read returns: STATUS exactly, always; in FAULT and while BUSY one value, `any`, from every other
register; otherwise the register's value, and a TRAM entry of an invalid table returns one value, `any`. A valid read
changes no state but what the host has read (and the model's own count of free values). -/
def Obligations.ReadsReturnRegisters : Prop :=
  ∀ s : State,
    s.rd 0x0008 .b8 = { s with reads := s.reads ++ [s.status] } ∧
    (s.fault = true ∨ s.busy = true → ∀ r : Reg, r ≠ .status →
      ∃ v, s.rd (offsetOf r) .b8 = { s with reads := s.reads ++ [v], draws := s.draws + 1 }) ∧
    (s.Accepts →
      s.rd 0x0000 .b8 = { s with reads := s.reads ++ [0] } ∧
      s.rd 0x0010 .b8 = { s with reads := s.reads ++ [s.addr] } ∧
      s.rd 0x0018 .b8 = { s with reads := s.reads ++ [s.len] } ∧
      s.rd 0x0020 .b8 = { s with reads := s.reads ++ [s.count] } ∧
      ∀ ch : Ch,
        s.rd (0x40 + 8 * ch.index.setWidth 16) .b8 = { s with reads := s.reads ++ [(s.crc ch).setWidth 64] } ∧
        s.rd (0x60 + 8 * ch.index.setWidth 16) .b8
          = { s with reads := s.reads ++ [(ch.fx (s.crc ch)).setWidth 64] } ∧
        ∀ i : Byte,
          s.rd (0x1000 + 0x1000 * ch.index.setWidth 16 + 8 * i.setWidth 16) .b8
            = { s with reads := s.reads ++ [(ch.synthEntry i).setWidth 64] } ∧
          (s.tvalid ch = true →
            s.rd (0x1800 + 0x1000 * ch.index.setWidth 16 + 8 * i.setWidth 16) .b8
              = { s with reads := s.reads ++ [(s.tram ch i).setWidth 64] }) ∧
          (s.tvalid ch = false →
            ∃ v, s.rd (0x1800 + 0x1000 * ch.index.setWidth 16 + 8 * i.setWidth 16) .b8
              = { s with reads := s.reads ++ [v], draws := s.draws + 1 }))

/-- R166, R167: while BUSY a valid WR to any register raises BUSY and abandons the running command, a read of STATUS is
exact, and a read of any other register returns one value, `any`; in FAULT a read of STATUS is exact and shows FAULT and
the ERR code, and a read of any other register returns one value, `any`. -/
def Obligations.AccessesWhileBusyOrInFault : Prop :=
  ∀ s : State,
    (s.fault = false → s.busy = true →
      (∀ (r : Reg) (v : Word), s.wr (offsetOf r) .b8 v = .next (s.raise .busy)) ∧
      ((s.raise .busy).fault = true ∧ (s.raise .busy).err = .busy ∧ (s.raise .busy).seq = .idle) ∧
      (s.rd 0x0008 .b8).reads = s.reads ++ [s.status] ∧ s.status.getLsbD 0 = true ∧
      ∀ r : Reg, r ≠ .status → ∃ v, s.rd (offsetOf r) .b8 = { s with reads := s.reads ++ [v], draws := s.draws + 1 }) ∧
    (s.fault = true →
      s.rd 0x0008 .b8 = { s with reads := s.reads ++ [s.status] } ∧ s.status.getLsbD 1 = true ∧
      s.status.extractLsb' 4 4 = s.err.code ∧
      ∀ r : Reg, r ≠ .status → ∃ v, s.rd (offsetOf r) .b8 = { s with reads := s.reads ++ [v], draws := s.draws + 1 })

/-- R161: a transaction is valid exactly when it is 8 bytes wide at an 8-aligned offset of the listed ranges; an invalid one
raises ACCESS outside FAULT, an invalid WR changing nothing but the fault on an idle block, and has no effect in FAULT,
where an invalid RD still returns a value. -/
def Obligations.InvalidTransactionsRaiseAccess : Prop :=
  (∀ (off : Offset) (size : AccessSize), (∃ r, validAccess off size = some r) ↔
    (size = .b8 ∧ off.toNat % 8 = 0 ∧
      (off.toNat ∈ [0x00, 0x08, 0x10, 0x18, 0x20] ∨ (0x40 ≤ off.toNat ∧ off.toNat ≤ 0x78)
        ∨ (0x1000 ≤ off.toNat ∧ off.toNat ≤ 0x4FF8)))) ∧
  ∀ (s : State) (off : Offset) (size : AccessSize) (v : Word), validAccess off size = none →
    (s.fault = false → ((s.rd off size).fault = true ∧ (s.rd off size).err = .access) ∧
      (∃ x, (s.rd off size).reads = s.reads ++ [x]) ∧
      ∃ t, s.wr off size v = .next t ∧ t.fault = true ∧ t.err = .access ∧ t.reads = s.reads) ∧
    (s.fault = false → s.busy = false →
      s.wr off size v = .next { s with fault := true, err := .access } ∧
      ∃ x, s.rd off size
        = { s with reads := s.reads ++ [x], draws := s.draws + 1, fault := true, err := .access }) ∧
    (s.fault = true → s.wr off size v = .next s ∧
      ∃ x, s.rd off size = { s with reads := s.reads ++ [x], draws := s.draws + 1 })

/-- R163: a valid WR, by the state of the block and by the register. -/
def Obligations.WritesByRegister : Prop :=
  ∀ (s : State) (r : Reg) (v : Word),
    (s.fault = true → s.wr (offsetOf r) .b8 v = .next s) ∧
    (s.fault = false → s.busy = true → s.wr (offsetOf r) .b8 v = .next (s.raise .busy)) ∧
    (s.fault = false → s.busy = false →
      match r with
      | .cmd => s.wr (offsetOf r) .b8 v = s.accept v
      | .addr => s.wr (offsetOf r) .b8 v = .next { s with addr := v }
      | .len => s.wr (offsetOf r) .b8 v = .next { s with len := v }
      | _ => s.wr (offsetOf r) .b8 v = .next { s with fault := true, err := .access })

/-- R164: acceptance by the fields of the written value. -/
def Obligations.AcceptanceByOpcode : Prop :=
  ∀ (s : State) (v : Word), s.Accepts →
    let ch := Ch.ofIndex (v.extractLsb' 4 2)
    let src := TSrc.ofBit (v.extractLsb' 6 1)
    (illegal v = true → s.accept v = .next (s.raise .illegal)) ∧
    (illegal v = false →
      (v.extractLsb' 0 4 = 0 → s.accept v = exec .nop s) ∧
      (v.extractLsb' 0 4 = 1 → s.accept v = exec (.seed ch) s) ∧
      (v.extractLsb' 0 4 = 2 → s.accept v = exec (.synth ch) s) ∧
      (v.extractLsb' 0 4 = 3 → s.accept v = exec (.update ch src (v.extractLsb' 8 8)) s) ∧
      (v.extractLsb' 0 4 = 4 → s.accept v = exec (.calcLen ch src) s) ∧
      (v.extractLsb' 0 4 = 5 → s.accept v = exec (.calcz ch src) s))

/-- R178: the first condition that applies to a host transaction decides, in the order of the rule; no command meets both
conditions of its last item, and BUS never arises inside a host transaction. -/
def Obligations.ErrorPriority : Prop :=
  ∀ (s : State) (off : Offset) (size : AccessSize) (v : Word),
    (s.fault = true →
      s.wr off size v = .next s ∧ s.SameControl (s.rd off size) ∧
      (∃ x, (s.rd off size).reads = s.reads ++ [x]) ∧ (s.rd 0x0008 .b8).reads = s.reads ++ [s.status]) ∧
    (s.fault = false → validAccess off size = none →
      s.wr off size v = .next (s.raise .access) ∧ (s.rd off size).fault = true ∧ (s.rd off size).err = .access) ∧
    (s.fault = false → ∀ r, validAccess off size = some r → s.busy = true →
      s.wr off size v = .next (s.raise .busy)) ∧
    (s.Accepts → ∀ r, validAccess off size = some r → r ≠ .cmd → r ≠ .addr → r ≠ .len →
      s.wr off size v = .next (s.raise .access)) ∧
    (s.Accepts → validAccess off size = some .cmd → illegal v = true →
      s.wr off size v = .next (s.raise .illegal)) ∧
    (s.Accepts → validAccess off size = some .cmd →
      (∀ ch imm, decode v = .ok (.update ch .ram imm) → s.tvalid ch = false →
        s.wr off size v = .next (s.raise .notable)) ∧
      (∀ ch src, decode v = .ok (.calcLen ch src) ∨ decode v = .ok (.calcz ch src) → ¬ s.RangeOk →
        s.wr off size v = .next (s.raise .range))) ∧
    ((s.rd off size).err = .bus → s.err = .bus) ∧
    (∀ t, s.wr off size v = .next t → t.err = .bus → s.err = .bus)

/-! ### Errors -/

/-- R176, R177: raising an error sets FAULT and ERR, abandons the running command and clears BUSY; on an idle block it
changes nothing else, and on a running command it changes no TVALID, no other channel, and neither ADDR nor LEN; on a
running fold it leaves the channel's table alone, which is the model's reading of R177 (DEDUCED,
notes/assumptions/11.md). -/
def Obligations.RaisingAnError : Prop :=
  ∀ (s : State) (e : ErrCode),
    ((s.raise e).fault = true ∧ (s.raise e).err = e ∧ (s.raise e).seq = .idle ∧ (s.raise e).busy = false) ∧
    (s.seq = .idle → s.raise e = { s with fault := true, err := e }) ∧
    (∀ f, s.seq = .fold f → s.SameChannelsBut (s.raise e) f.ch ∧ s.SameTable (s.raise e) f.ch) ∧
    (∀ ch n, s.seq = .synth ch n →
      s.SameChannelsBut (s.raise e) ch ∧ (s.raise e).tvalid ch = s.tvalid ch) ∧
    s.SameAddrLen (s.raise e) ∧ s.SameMemory (s.raise e) ∧ s.NoRead (s.raise e)

/-- R165, R182, R196, R36: while FAULT is 1, any step but a reset leaves FAULT, ERR and all of the block's state as they
are; in particular no command is accepted and no later error is recorded. -/
def Obligations.OnlyResetLeavesFault : Prop :=
  ∀ s t : State, s.Inv → s.fault = true → s.inputs.head? ≠ some .reset → step s = .next t →
    s.SameControl t ∧ s.SameChannels t ∧ s.SameAddrLen t ∧ t.count = s.count ∧ s.NoRead t

/-- R175, R176, R36: a step that turns FAULT from 0 to 1 leaves the sequencer Idle and records the code of the error whose
cause (R175) the state and the transaction show; a step that leaves FAULT 0 records none. -/
def Obligations.ErrIsTheFirstErrorsCode : Prop :=
  ∀ s t : State, s.Inv → s.fault = false → step s = .next t →
    (t.fault = false → t.err.code = 0) ∧
    (t.fault = true → t.seq = .idle ∧
      match t.err with
      | .none => False
      | .illegal => s.busy = false ∧ ∃ v, s.inputs.head? = some (.wr 0x0000 .b8 v) ∧ illegal v = true
      | .notable => s.busy = false ∧ ∃ v ch imm, s.inputs.head? = some (.wr 0x0000 .b8 v) ∧
          decode v = .ok (.update ch .ram imm) ∧ s.tvalid ch = false
      | .busy => s.busy = true ∧ ∃ off v r, s.inputs.head? = some (.wr off .b8 v) ∧ validAccess off .b8 = some r
      | .range => s.busy = false ∧ (∃ v ch src, s.inputs.head? = some (.wr 0x0000 .b8 v) ∧
          (decode v = .ok (.calcLen ch src) ∨ decode v = .ok (.calcz ch src))) ∧ ¬ s.RangeOk
      | .bus => (s.inputs = [] ∨ s.inputs.head? = some .tick) ∧
          ∃ f, s.seq = .fold f ∧ f.k ≠ f.len ∧ s.memAdmit (f.base + f.k) = false
      | .access =>
          (∃ off size, validAccess off size = none ∧
            (s.inputs.head? = some (.rd off size) ∨ ∃ v, s.inputs.head? = some (.wr off size v))) ∨
          (s.busy = false ∧ ∃ r v, s.inputs.head? = some (.wr (offsetOf r) .b8 v) ∧ r ≠ .cmd ∧ r ≠ .addr ∧ r ≠ .len))

/-! ### Reset -/

/-- R195: the state right after reset. -/
def Obligations.ResetValues : Prop :=
  (State.reset.crc .w8 = 0x00 ∧ State.reset.crc .w16 = 0xFFFF ∧ State.reset.crc .w32 = 0xFFFFFFFF ∧
    State.reset.crc .w64 = 0xFFFFFFFFFFFFFFFF) ∧
  (∀ ch, State.reset.tvalid ch = false) ∧ State.reset.addr = 0 ∧ State.reset.len = 0 ∧ State.reset.count = 0 ∧
  State.reset.status = 0 ∧ State.reset.seq = .idle ∧
  (State.reset.digest .w8 = 0x00 ∧ State.reset.digest .w16 = 0xFFFF ∧ State.reset.digest .w32 = 0x00000000 ∧
    State.reset.digest .w64 = 0xFFFFFFFFFFFFFFFF)

/-- R195, R196, R197: asserting reset, in any state, gives every element of the block its reset value, abandons a running
command without a further read, and leaves the platform's memory alone; the block then accepts commands. -/
def Obligations.ResetFromAnyState : Prop :=
  ∀ (s : State) (rest : List Event), s.inputs = .reset :: rest →
    ∃ t, step s = .next t ∧ (∀ ch, t.crc ch = ch.init ∧ t.tvalid ch = false ∧ t.digest ch = ch.calculate []) ∧
      t.addr = 0 ∧ t.len = 0 ∧ t.count = 0 ∧ t.status = 0 ∧ t.err = .none ∧ t.seq = .idle ∧ t.Accepts ∧
      s.NoRead t ∧ s.SameMemory t ∧ t.inputs = rest ∧ t.reads = s.reads

/-- The invariant holds right after reset. -/
def Obligations.ResetSatisfiesInvariant : Prop := State.reset.Inv

/-! ### The whole machine -/

/-- Every step keeps the invariant: the memory's canonical form, FAULT and ERR in step with Idle, a valid TRAM equal to
TROM (R106), and a sequencer that agrees with TVALID, COUNT and the range rule (R26, R30, R40, R68). -/
def Obligations.StepKeepsInvariant : Prop :=
  ∀ s t : State, s.Inv → step s = .next t → t.Inv

/-- R74, R41: when the host's next transaction writes a legal value to CMD, the step is that command's meaning at the state
without the transaction, in every state. So runs a word placed by `withFetchWord`, which stands for that transaction by the
model's choice (DESIGN CHOICE, notes/assumptions/8.md). -/
def Obligations.StepRunsTheDecodedCommand : Prop :=
  (∀ (s : State) (v : Word) (i : Instr) (rest : List Event),
    s.inputs = .wr 0x0000 .b8 v :: rest → decode v = .ok i → step s = exec i { s with inputs := rest }) ∧
  ∀ (s : State) (nbits w : Nat) (i : Instr), decodeTableWord nbits w = some i →
    step (s.withFetchWord nbits w) = exec i s

/-- No step of the machine stops: every error of the spec is a state (R176). -/
def Obligations.EveryStepAnswersNext : Prop :=
  ∀ s : State, ∃ t, step s = .next t

/-- R24: a step that changes CRC[ch] is a reset, an accepted SEED, UPDATE, CALC or CALCZ of that channel, a step while a
fold of that channel runs, or an error that aborts a synthesis of that channel. -/
def Obligations.CrcIsWrittenOnlyByItsCommands : Prop :=
  ∀ (s t : State) (ch : Ch), step s = .next t → t.crc ch ≠ s.crc ch →
    s.inputs.head? = some .reset ∨
    (s.Accepts ∧ ∃ v i, s.inputs.head? = some (.wr 0x0000 .b8 v) ∧ decode v = .ok i ∧
      (i = .seed ch ∨ (∃ src imm, i = .update ch src imm) ∨ (∃ src, i = .calcLen ch src) ∨ ∃ src, i = .calcz ch src)) ∨
    (∃ f, s.seq = .fold f ∧ f.ch = ch) ∨
    (∃ n, s.seq = .synth ch n ∧ t.fault = true)

/-- R28, R29: only the host's writes and reset change ADDR and LEN, and a write changes them to the value written. -/
def Obligations.AddrAndLenAreWrittenOnlyByTheHost : Prop :=
  ∀ s t : State, step s = .next t →
    (t.addr ≠ s.addr → s.inputs.head? = some .reset ∨
      (s.Accepts ∧ s.inputs.head? = some (.wr 0x0010 .b8 t.addr))) ∧
    (t.len ≠ s.len → s.inputs.head? = some .reset ∨
      (s.Accepts ∧ s.inputs.head? = some (.wr 0x0018 .b8 t.len)))

/-- R26: a step that changes TVALID[ch] is a reset, the completion of a synthesis of that channel, or an accepted SYNTH, or
CALC or CALCZ with TSRC = 1, of that channel. -/
def Obligations.TvalidIsWrittenOnlyBySynthesis : Prop :=
  ∀ (s t : State) (ch : Ch), step s = .next t → t.tvalid ch ≠ s.tvalid ch →
    (s.inputs.head? = some .reset ∧ t.tvalid ch = false) ∨
    (t.tvalid ch = true ∧ ∃ n, s.seq = .synth ch n) ∨
    (t.tvalid ch = false ∧ t.busy = true ∧ s.Accepts ∧ ∃ v i, s.inputs.head? = some (.wr 0x0000 .b8 v) ∧
      decode v = .ok i ∧ (i = .synth ch ∨ i = .calcLen ch .ram ∨ i = .calcz ch .ram))

/-- R30: COUNT changes only at a reset, at an accepted CALC or CALCZ, which clears it, and while a command runs. -/
def Obligations.CountIsWrittenOnlyByBufferCommands : Prop :=
  ∀ s t : State, step s = .next t → t.count ≠ s.count →
    s.inputs.head? = some .reset ∨ s.busy = true ∨
    (t.count = 0 ∧ s.Accepts ∧ ∃ v ch src, s.inputs.head? = some (.wr 0x0000 .b8 v) ∧
      (decode v = .ok (.calcLen ch src) ∨ decode v = .ok (.calcz ch src)))

/-- R34, R205: a step that sets BUSY is an accepted SYNTH, CALC or CALCZ; NOP, SEED and UPDATE never set it. -/
def Obligations.BusyIsSetOnlyByLongCommands : Prop :=
  ∀ s t : State, step s = .next t → s.busy = false → t.busy = true →
    s.fault = false ∧ ∃ v, s.inputs.head? = some (.wr 0x0000 .b8 v) ∧
      ((∃ ch, decode v = .ok (.synth ch)) ∨ (∃ ch src, decode v = .ok (.calcLen ch src)) ∨
        ∃ ch src, decode v = .ok (.calcz ch src))

/-- R60, R73: the block never writes memory: a step that is no write by another agent leaves every byte as it was, and such
a write changes the byte it writes and no other. -/
def Obligations.BlockNeverWritesMemory : Prop :=
  ∀ s t : State, step s = .next t →
    ((∀ a b, s.inputs.head? ≠ some (.memWrite a b)) → s.SameMemory t) ∧
    (∀ a b, s.inputs.head? = some (.memWrite a b) →
      t.memByte a = b ∧ (∀ x, x ≠ a → t.memByte x = s.memByte x) ∧ s.SameChannels t ∧ s.SameControl t ∧
        s.SameAddrLen t ∧ t.count = s.count ∧ s.NoRead t)

/-- R23: a command neither changes nor reads the state of a channel it does not address: with another channel's CRC, TRAM
and TVALID replaced by anything, it does the same to everything else, at acceptance and at every sequencer step. -/
def Obligations.ChannelsDoNotInteract : Prop :=
  (∀ (i : Instr) (s t : State) (c : Ch) (x : Channel c.width), s.Accepts → i.channel ≠ some c →
    exec i s = .next t → exec i (s.setChan c x) = .next (t.setChan c x)) ∧
  ∀ (s : State) (c : Ch) (x : Channel c.width), (∀ n, s.seq ≠ .synth c n) → (∀ f, s.seq = .fold f → f.ch ≠ c) →
    (s.setChan c x).seqStep = s.seqStep.setChan c x

/-- R91, R207: a `poll` with nothing after it ends: from a state of the invariant, after finitely many steps the host has read
a STATUS whose BUSY bit is 0 and the program has ended, and it has ended without an error where FAULT is 0 and the platform
admits every byte the running command may still read (how reads and sequencer steps alternate is the model's choice,
notes/assumptions/6.md). -/
def Obligations.PollEnds : Prop :=
  ∀ s : State, s.Inv → s.inputs = [.poll] →
    ∃ n u v, run n s = .next u ∧ u.Ended ∧ u.reads.getLast? = some v ∧ v.getLsbD 0 = false ∧ v = u.status ∧
      (s.fault = false → s.AdmitsRest → u.EndedWithoutError)

/-- R91, R199, R207: the host programs of the source's entry points, from a block that takes commands, over a buffer that R68
lets through and the platform admits, end without an error, and the last value the host has read is the digest: of the
buffer (`calculate_ram`, `calculate_rom`, `calculate_seq_buf`), of its bytes before the first 0x00 (`calculate_static`), and
of the listed bytes (`calculate_static_seq`). (How a poll alternates with the sequencer is the model's choice,
notes/assumptions/6.md.) -/
def Obligations.HostProgramsReturnTheDigest : Prop :=
  (∀ (ch : Ch) (a n : Word) (s : State), s.Accepts →
    ({ s with addr := a, len := n } : State).RangeOk →
    ({ s with addr := a, len := n } : State).AdmitsFirst n.toNat →
    (s.inputs = calculateRam ch a n ∨ s.inputs = calculateRom ch a n ∨ s.inputs = calculateSeqBuf ch a n →
      ∃ m u, run m s = .next u ∧ u.EndedWithoutError ∧
        u.reads.getLast? = some ((ch.calculate ({ s with addr := a, len := n } : State).buffer).setWidth 64)) ∧
    (s.inputs = calculateStatic ch a n →
      ∃ m u, run m s = .next u ∧ u.EndedWithoutError ∧
        u.reads.getLast?
          = some ((ch.calculate (beforeZero ({ s with addr := a, len := n } : State).buffer)).setWidth 64))) ∧
  ∀ (ch : Ch) (bs : List Byte) (s : State), s.Accepts → s.inputs = calculateStaticSeq ch bs →
    ∃ m u, run m s = .next u ∧ u.EndedWithoutError ∧ u.reads.getLast? = some ((ch.calculate bs).setWidth 64)
end

