-- ==== Sys2Proof/Laws/Crc.lean ====
section
/-! SUPPORT. Laws of the arithmetic: one feedback step, and eight of them, are linear over XOR (the ground of R101 and
R126), and a fold of bytes goes byte by byte (R140). -/

namespace Sys2Proof

@[simp] theorem Ch.width_w8 : Ch.width .w8 = 8 := rfl
@[simp] theorem Ch.width_w16 : Ch.width .w16 = 16 := rfl
@[simp] theorem Ch.width_w32 : Ch.width .w32 = 32 := rfl
@[simp] theorem Ch.width_w64 : Ch.width .w64 = 64 := rfl

/-- Every width is at least one byte. -/
theorem Ch.eight_le_width (ch : Ch) : 8 ≤ ch.width := by cases ch <;> decide

/-- XOR with one value on both sides cancels. -/
theorem xor_xor_cancel {w : Nat} (a b p : BitVec w) : (a ^^^ p) ^^^ (b ^^^ p) = a ^^^ b := by
  rw [BitVec.xor_comm b p, ← BitVec.xor_assoc, BitVec.xor_assoc a p p, BitVec.xor_self, BitVec.xor_zero]

/-- The shift-and-conditional-XOR step is linear over XOR. -/
theorem Ch.feedback_xor (ch : Ch) (a b : BitVec ch.width) : ch.feedback (a ^^^ b) = ch.feedback a ^^^ ch.feedback b := by
  unfold Ch.feedback
  split
  · rw [BitVec.getLsbD_xor, BitVec.ushiftRight_xor_distrib]
    cases a.getLsbD 0 <;> cases b.getLsbD 0 <;> simp [xor_xor_cancel] <;> ac_rfl
  · rw [BitVec.msb_xor, BitVec.shiftLeft_xor_distrib]
    cases a.msb <;> cases b.msb <;> simp [xor_xor_cancel] <;> ac_rfl

/-- So are eight of them. -/
theorem Ch.feedback8_xor (ch : Ch) (a b : BitVec ch.width) :
    ch.feedback8 (a ^^^ b) = ch.feedback8 a ^^^ ch.feedback8 b := by
  simp [Ch.feedback8, Ch.feedback_xor]

theorem Ch.place_xor (ch : Ch) (a b : Byte) : ch.place (a ^^^ b) = ch.place a ^^^ ch.place b := by
  unfold Ch.place
  split
  · simp
  · rw [BitVec.setWidth_xor, BitVec.shiftLeft_xor_distrib]

@[simp] theorem Ch.foldBytes_nil (ch : Ch) (r : BitVec ch.width) : ch.foldBytes r [] = r := rfl

@[simp] theorem Ch.foldBytes_cons (ch : Ch) (r : BitVec ch.width) (b : Byte) (bs : List Byte) :
    ch.foldBytes r (b :: bs) = ch.foldBytes (ch.update r ch.synthEntry b) bs := rfl

theorem Ch.foldBytes_append (ch : Ch) (r : BitVec ch.width) (bs cs : List Byte) :
    ch.foldBytes r (bs ++ cs) = ch.foldBytes (ch.foldBytes r bs) cs := by
  simp [Ch.foldBytes]

theorem beforeZero_of_not_mem {bs : List Byte} (h : 0 ∉ bs) : beforeZero bs = bs := by
  induction bs with
  | nil => rfl
  | cons b bs ih =>
    simp only [List.mem_cons, not_or] at h
    have hb : ¬b = 0#8 := fun e => h.1 e.symm
    simpa [beforeZero, hb] using ih h.2

theorem beforeZero_append_zero {bs : List Byte} (rest : List Byte) (h : 0 ∉ bs) : beforeZero (bs ++ 0 :: rest) = bs := by
  induction bs with
  | nil => simp [beforeZero]
  | cons b bs ih =>
    simp only [List.mem_cons, not_or] at h
    have hb : ¬b = 0#8 := fun e => h.1 e.symm
    simpa [beforeZero, hb] using ih h.2

theorem beforeZero_length_le (bs : List Byte) : (beforeZero bs).length ≤ bs.length := by
  induction bs with
  | nil => simp [beforeZero]
  | cons b bs ih =>
    unfold beforeZero
    split
    · simp
    · simpa using ih

end Sys2Proof
end

