-- ==== Sys2Proof/Laws/State.lean ====
section
/-! SUPPORT. The small lemmas of State: what each named update does to each field, true by definition, so that no proof
unfolds a record update. -/

namespace Sys2Proof.Machine

variable (s : State)

/-! ### A channel's state -/

@[simp] theorem State.chan_setChan_same (ch : Ch) (c : Channel ch.width) : (s.setChan ch c).chan ch = c := by
  cases ch <;> rfl

theorem State.chan_setChan_ne (ch d : Ch) (c : Channel ch.width) (h : d ≠ ch) :
    (s.setChan ch c).chan d = s.chan d := by
  cases ch <;> cases d <;> first | rfl | exact absurd rfl h

theorem State.chan_setChan (ch d : Ch) (c : Channel ch.width) :
    (s.setChan ch c).chan d = if h : d = ch then h ▸ c else s.chan d := by
  by_cases h : d = ch
  · subst h; simp
  · simp [h, State.chan_setChan_ne s ch d c h]

/-- A channel reads the four channel fields only, whatever the others hold. -/
@[simp] theorem State.chan_mk (ch : Ch) (addr len count : Word) (fault : Bool) (err : ErrCode) (seq : Seq) (mem : Memory)
    (admitMap : List Region) (portReads raced : List Addr) (inputs : List Event) (reads : List Word) (draws : Nat) :
    (State.mk s.ch8 s.ch16 s.ch32 s.ch64 addr len count fault err seq mem admitMap portReads raced inputs reads
      draws).chan ch = s.chan ch := by
  cases ch <;> rfl


@[simp] theorem State.crc_mk (ch : Ch) (addr len count : Word) (fault : Bool) (err : ErrCode) (seq : Seq) (mem : Memory)
    (admitMap : List Region) (portReads raced : List Addr) (inputs : List Event) (reads : List Word) (draws : Nat) :
    (State.mk s.ch8 s.ch16 s.ch32 s.ch64 addr len count fault err seq mem admitMap portReads raced inputs reads
      draws).crc ch = s.crc ch := by
  simp [State.crc]


@[simp] theorem State.tvalid_mk (ch : Ch) (addr len count : Word) (fault : Bool) (err : ErrCode) (seq : Seq) (mem : Memory)
    (admitMap : List Region) (portReads raced : List Addr) (inputs : List Event) (reads : List Word) (draws : Nat) :
    (State.mk s.ch8 s.ch16 s.ch32 s.ch64 addr len count fault err seq mem admitMap portReads raced inputs reads
      draws).tvalid ch = s.tvalid ch := by
  simp [State.tvalid]


@[simp] theorem State.tram_mk (ch : Ch) (i : Byte) (addr len count : Word) (fault : Bool) (err : ErrCode) (seq : Seq)
    (mem : Memory) (admitMap : List Region) (portReads raced : List Addr) (inputs : List Event) (reads : List Word)
    (draws : Nat) :
    (State.mk s.ch8 s.ch16 s.ch32 s.ch64 addr len count fault err seq mem admitMap portReads raced inputs reads
      draws).tram ch i = s.tram ch i := by
  simp [State.tram]

/-! ### Replacing a channel's state leaves every other field -/

@[simp] theorem State.setChan_addr (ch : Ch) (c : Channel ch.width) : (s.setChan ch c).addr = s.addr := by cases ch <;> rfl
@[simp] theorem State.setChan_len (ch : Ch) (c : Channel ch.width) : (s.setChan ch c).len = s.len := by cases ch <;> rfl
@[simp] theorem State.setChan_count (ch : Ch) (c : Channel ch.width) : (s.setChan ch c).count = s.count := by cases ch <;> rfl
@[simp] theorem State.setChan_fault (ch : Ch) (c : Channel ch.width) : (s.setChan ch c).fault = s.fault := by cases ch <;> rfl
@[simp] theorem State.setChan_err (ch : Ch) (c : Channel ch.width) : (s.setChan ch c).err = s.err := by cases ch <;> rfl
@[simp] theorem State.setChan_seq (ch : Ch) (c : Channel ch.width) : (s.setChan ch c).seq = s.seq := by cases ch <;> rfl
@[simp] theorem State.setChan_mem (ch : Ch) (c : Channel ch.width) : (s.setChan ch c).mem = s.mem := by cases ch <;> rfl
@[simp] theorem State.setChan_admitMap (ch : Ch) (c : Channel ch.width) : (s.setChan ch c).admitMap = s.admitMap := by cases ch <;> rfl
@[simp] theorem State.setChan_portReads (ch : Ch) (c : Channel ch.width) : (s.setChan ch c).portReads = s.portReads := by cases ch <;> rfl
@[simp] theorem State.setChan_raced (ch : Ch) (c : Channel ch.width) : (s.setChan ch c).raced = s.raced := by cases ch <;> rfl
@[simp] theorem State.setChan_inputs (ch : Ch) (c : Channel ch.width) : (s.setChan ch c).inputs = s.inputs := by cases ch <;> rfl
@[simp] theorem State.setChan_reads (ch : Ch) (c : Channel ch.width) : (s.setChan ch c).reads = s.reads := by cases ch <;> rfl
@[simp] theorem State.setChan_draws (ch : Ch) (c : Channel ch.width) : (s.setChan ch c).draws = s.draws := by cases ch <;> rfl

/-! ### `setCrc` -/

@[simp] theorem State.setCrc_addr (ch : Ch) (v : BitVec ch.width) : (s.setCrc ch v).addr = s.addr := by simp [State.setCrc]
@[simp] theorem State.setCrc_len (ch : Ch) (v : BitVec ch.width) : (s.setCrc ch v).len = s.len := by simp [State.setCrc]
@[simp] theorem State.setCrc_count (ch : Ch) (v : BitVec ch.width) : (s.setCrc ch v).count = s.count := by simp [State.setCrc]
@[simp] theorem State.setCrc_fault (ch : Ch) (v : BitVec ch.width) : (s.setCrc ch v).fault = s.fault := by simp [State.setCrc]
@[simp] theorem State.setCrc_err (ch : Ch) (v : BitVec ch.width) : (s.setCrc ch v).err = s.err := by simp [State.setCrc]
@[simp] theorem State.setCrc_seq (ch : Ch) (v : BitVec ch.width) : (s.setCrc ch v).seq = s.seq := by simp [State.setCrc]
@[simp] theorem State.setCrc_mem (ch : Ch) (v : BitVec ch.width) : (s.setCrc ch v).mem = s.mem := by simp [State.setCrc]
@[simp] theorem State.setCrc_admitMap (ch : Ch) (v : BitVec ch.width) : (s.setCrc ch v).admitMap = s.admitMap := by simp [State.setCrc]
@[simp] theorem State.setCrc_portReads (ch : Ch) (v : BitVec ch.width) : (s.setCrc ch v).portReads = s.portReads := by simp [State.setCrc]
@[simp] theorem State.setCrc_raced (ch : Ch) (v : BitVec ch.width) : (s.setCrc ch v).raced = s.raced := by simp [State.setCrc]
@[simp] theorem State.setCrc_inputs (ch : Ch) (v : BitVec ch.width) : (s.setCrc ch v).inputs = s.inputs := by simp [State.setCrc]
@[simp] theorem State.setCrc_reads (ch : Ch) (v : BitVec ch.width) : (s.setCrc ch v).reads = s.reads := by simp [State.setCrc]
@[simp] theorem State.setCrc_draws (ch : Ch) (v : BitVec ch.width) : (s.setCrc ch v).draws = s.draws := by simp [State.setCrc]

theorem State.setCrc_chan_ne (ch d : Ch) (v : BitVec ch.width) (h : d ≠ ch) : (s.setCrc ch v).chan d = s.chan d :=
  State.chan_setChan_ne s ch d _ h

/-! ### `setTvalid` -/

@[simp] theorem State.setTvalid_addr (ch : Ch) (b : Bool) : (s.setTvalid ch b).addr = s.addr := by simp [State.setTvalid]
@[simp] theorem State.setTvalid_len (ch : Ch) (b : Bool) : (s.setTvalid ch b).len = s.len := by simp [State.setTvalid]
@[simp] theorem State.setTvalid_count (ch : Ch) (b : Bool) : (s.setTvalid ch b).count = s.count := by simp [State.setTvalid]
@[simp] theorem State.setTvalid_fault (ch : Ch) (b : Bool) : (s.setTvalid ch b).fault = s.fault := by simp [State.setTvalid]
@[simp] theorem State.setTvalid_err (ch : Ch) (b : Bool) : (s.setTvalid ch b).err = s.err := by simp [State.setTvalid]
@[simp] theorem State.setTvalid_seq (ch : Ch) (b : Bool) : (s.setTvalid ch b).seq = s.seq := by simp [State.setTvalid]
@[simp] theorem State.setTvalid_mem (ch : Ch) (b : Bool) : (s.setTvalid ch b).mem = s.mem := by simp [State.setTvalid]
@[simp] theorem State.setTvalid_admitMap (ch : Ch) (b : Bool) : (s.setTvalid ch b).admitMap = s.admitMap := by simp [State.setTvalid]
@[simp] theorem State.setTvalid_portReads (ch : Ch) (b : Bool) : (s.setTvalid ch b).portReads = s.portReads := by simp [State.setTvalid]
@[simp] theorem State.setTvalid_raced (ch : Ch) (b : Bool) : (s.setTvalid ch b).raced = s.raced := by simp [State.setTvalid]
@[simp] theorem State.setTvalid_inputs (ch : Ch) (b : Bool) : (s.setTvalid ch b).inputs = s.inputs := by simp [State.setTvalid]
@[simp] theorem State.setTvalid_reads (ch : Ch) (b : Bool) : (s.setTvalid ch b).reads = s.reads := by simp [State.setTvalid]
@[simp] theorem State.setTvalid_draws (ch : Ch) (b : Bool) : (s.setTvalid ch b).draws = s.draws := by simp [State.setTvalid]

theorem State.setTvalid_chan_ne (ch d : Ch) (b : Bool) (h : d ≠ ch) : (s.setTvalid ch b).chan d = s.chan d :=
  State.chan_setChan_ne s ch d _ h

/-! ### `setTram` -/

@[simp] theorem State.setTram_addr (ch : Ch) (f : Byte → BitVec ch.width) : (s.setTram ch f).addr = s.addr := by simp [State.setTram]
@[simp] theorem State.setTram_len (ch : Ch) (f : Byte → BitVec ch.width) : (s.setTram ch f).len = s.len := by simp [State.setTram]
@[simp] theorem State.setTram_count (ch : Ch) (f : Byte → BitVec ch.width) : (s.setTram ch f).count = s.count := by simp [State.setTram]
@[simp] theorem State.setTram_fault (ch : Ch) (f : Byte → BitVec ch.width) : (s.setTram ch f).fault = s.fault := by simp [State.setTram]
@[simp] theorem State.setTram_err (ch : Ch) (f : Byte → BitVec ch.width) : (s.setTram ch f).err = s.err := by simp [State.setTram]
@[simp] theorem State.setTram_seq (ch : Ch) (f : Byte → BitVec ch.width) : (s.setTram ch f).seq = s.seq := by simp [State.setTram]
@[simp] theorem State.setTram_mem (ch : Ch) (f : Byte → BitVec ch.width) : (s.setTram ch f).mem = s.mem := by simp [State.setTram]
@[simp] theorem State.setTram_admitMap (ch : Ch) (f : Byte → BitVec ch.width) : (s.setTram ch f).admitMap = s.admitMap := by simp [State.setTram]
@[simp] theorem State.setTram_portReads (ch : Ch) (f : Byte → BitVec ch.width) : (s.setTram ch f).portReads = s.portReads := by simp [State.setTram]
@[simp] theorem State.setTram_raced (ch : Ch) (f : Byte → BitVec ch.width) : (s.setTram ch f).raced = s.raced := by simp [State.setTram]
@[simp] theorem State.setTram_inputs (ch : Ch) (f : Byte → BitVec ch.width) : (s.setTram ch f).inputs = s.inputs := by simp [State.setTram]
@[simp] theorem State.setTram_reads (ch : Ch) (f : Byte → BitVec ch.width) : (s.setTram ch f).reads = s.reads := by simp [State.setTram]
@[simp] theorem State.setTram_draws (ch : Ch) (f : Byte → BitVec ch.width) : (s.setTram ch f).draws = s.draws := by simp [State.setTram]

theorem State.setTram_chan_ne (ch d : Ch) (f : Byte → BitVec ch.width) (h : d ≠ ch) : (s.setTram ch f).chan d = s.chan d :=
  State.chan_setChan_ne s ch d _ h

@[simp] theorem State.setCrc_crc (ch : Ch) (v : BitVec ch.width) : (s.setCrc ch v).crc ch = v := by
  simp [State.setCrc, State.crc]

@[simp] theorem State.setCrc_tvalid (ch d : Ch) (v : BitVec ch.width) : (s.setCrc ch v).tvalid d = s.tvalid d := by
  by_cases h : d = ch
  · subst h; simp [State.setCrc, State.tvalid]
  · simp [State.tvalid, State.setCrc_chan_ne s ch d v h]

@[simp] theorem State.setCrc_tram (ch d : Ch) (v : BitVec ch.width) (i : Byte) :
    (s.setCrc ch v).tram d i = s.tram d i := by
  by_cases h : d = ch
  · subst h; simp [State.setCrc, State.tram]
  · simp [State.tram, State.setCrc_chan_ne s ch d v h]

@[simp] theorem State.setTvalid_tvalid (ch : Ch) (b : Bool) : (s.setTvalid ch b).tvalid ch = b := by
  simp [State.setTvalid, State.tvalid]

@[simp] theorem State.setTvalid_crc (ch d : Ch) (b : Bool) : (s.setTvalid ch b).crc d = s.crc d := by
  by_cases h : d = ch
  · subst h; simp [State.setTvalid, State.crc]
  · simp [State.crc, State.setTvalid_chan_ne s ch d b h]

@[simp] theorem State.setTvalid_tram (ch d : Ch) (b : Bool) (i : Byte) :
    (s.setTvalid ch b).tram d i = s.tram d i := by
  by_cases h : d = ch
  · subst h; simp [State.setTvalid, State.tram]
  · simp [State.tram, State.setTvalid_chan_ne s ch d b h]

@[simp] theorem State.setTram_tram (ch : Ch) (f : Byte → BitVec ch.width) (i : Byte) :
    (s.setTram ch f).tram ch i = f i := by
  simp [State.setTram, State.tram]

@[simp] theorem State.setTram_crc (ch d : Ch) (f : Byte → BitVec ch.width) : (s.setTram ch f).crc d = s.crc d := by
  by_cases h : d = ch
  · subst h; simp [State.setTram, State.crc]
  · simp [State.crc, State.setTram_chan_ne s ch d f h]

@[simp] theorem State.setTram_tvalid (ch d : Ch) (f : Byte → BitVec ch.width) :
    (s.setTram ch f).tvalid d = s.tvalid d := by
  by_cases h : d = ch
  · subst h; simp [State.setTram, State.tvalid]
  · simp [State.tvalid, State.setTram_chan_ne s ch d f h]

/-! ### Drawing, the read port and replies -/

@[simp] theorem State.drawn_addr (n : Nat) : (s.drawn n).addr = s.addr := rfl
@[simp] theorem State.drawn_len (n : Nat) : (s.drawn n).len = s.len := rfl
@[simp] theorem State.drawn_count (n : Nat) : (s.drawn n).count = s.count := rfl
@[simp] theorem State.drawn_fault (n : Nat) : (s.drawn n).fault = s.fault := rfl
@[simp] theorem State.drawn_err (n : Nat) : (s.drawn n).err = s.err := rfl
@[simp] theorem State.drawn_seq (n : Nat) : (s.drawn n).seq = s.seq := rfl
@[simp] theorem State.drawn_mem (n : Nat) : (s.drawn n).mem = s.mem := rfl
@[simp] theorem State.drawn_admitMap (n : Nat) : (s.drawn n).admitMap = s.admitMap := rfl
@[simp] theorem State.drawn_portReads (n : Nat) : (s.drawn n).portReads = s.portReads := rfl
@[simp] theorem State.drawn_raced (n : Nat) : (s.drawn n).raced = s.raced := rfl
@[simp] theorem State.drawn_inputs (n : Nat) : (s.drawn n).inputs = s.inputs := rfl
@[simp] theorem State.drawn_reads (n : Nat) : (s.drawn n).reads = s.reads := rfl
@[simp] theorem State.drawn_draws (n : Nat) : (s.drawn n).draws = s.draws + n := rfl
@[simp] theorem State.drawn_chan (n : Nat) (ch : Ch) : (s.drawn n).chan ch = s.chan ch := by simp [State.drawn]
@[simp] theorem State.drawn_crc (n : Nat) (ch : Ch) : (s.drawn n).crc ch = s.crc ch := by simp [State.crc]
@[simp] theorem State.drawn_tvalid (n : Nat) (ch : Ch) : (s.drawn n).tvalid ch = s.tvalid ch := by simp [State.tvalid]
@[simp] theorem State.drawn_tram (n : Nat) (ch : Ch) (i : Byte) : (s.drawn n).tram ch i = s.tram ch i := by
  simp [State.tram]

@[simp] theorem State.issueRead_addr (a : Addr) : (s.issueRead a).addr = s.addr := rfl
@[simp] theorem State.issueRead_len (a : Addr) : (s.issueRead a).len = s.len := rfl
@[simp] theorem State.issueRead_count (a : Addr) : (s.issueRead a).count = s.count := rfl
@[simp] theorem State.issueRead_fault (a : Addr) : (s.issueRead a).fault = s.fault := rfl
@[simp] theorem State.issueRead_err (a : Addr) : (s.issueRead a).err = s.err := rfl
@[simp] theorem State.issueRead_seq (a : Addr) : (s.issueRead a).seq = s.seq := rfl
@[simp] theorem State.issueRead_mem (a : Addr) : (s.issueRead a).mem = s.mem := rfl
@[simp] theorem State.issueRead_admitMap (a : Addr) : (s.issueRead a).admitMap = s.admitMap := rfl
@[simp] theorem State.issueRead_raced (a : Addr) : (s.issueRead a).raced = s.raced := rfl
@[simp] theorem State.issueRead_inputs (a : Addr) : (s.issueRead a).inputs = s.inputs := rfl
@[simp] theorem State.issueRead_reads (a : Addr) : (s.issueRead a).reads = s.reads := rfl
@[simp] theorem State.issueRead_portReads (a : Addr) : (s.issueRead a).portReads = s.portReads ++ [a] := rfl
@[simp] theorem State.issueRead_draws (a : Addr) :
    (s.issueRead a).draws = s.draws + if a ∈ s.raced then 1 else 0 := rfl
@[simp] theorem State.issueRead_chan (a : Addr) (ch : Ch) : (s.issueRead a).chan ch = s.chan ch := by
  simp [State.issueRead]
@[simp] theorem State.issueRead_crc (a : Addr) (ch : Ch) : (s.issueRead a).crc ch = s.crc ch := by simp [State.crc]
@[simp] theorem State.issueRead_tvalid (a : Addr) (ch : Ch) : (s.issueRead a).tvalid ch = s.tvalid ch := by
  simp [State.tvalid]
@[simp] theorem State.issueRead_tram (a : Addr) (ch : Ch) (i : Byte) : (s.issueRead a).tram ch i = s.tram ch i := by
  simp [State.tram]

@[simp] theorem State.reply_addr (v : Option Word) : (s.reply v).addr = s.addr := by cases v <;> rfl
@[simp] theorem State.reply_len (v : Option Word) : (s.reply v).len = s.len := by cases v <;> rfl
@[simp] theorem State.reply_count (v : Option Word) : (s.reply v).count = s.count := by cases v <;> rfl
@[simp] theorem State.reply_fault (v : Option Word) : (s.reply v).fault = s.fault := by cases v <;> rfl
@[simp] theorem State.reply_err (v : Option Word) : (s.reply v).err = s.err := by cases v <;> rfl
@[simp] theorem State.reply_seq (v : Option Word) : (s.reply v).seq = s.seq := by cases v <;> rfl
@[simp] theorem State.reply_mem (v : Option Word) : (s.reply v).mem = s.mem := by cases v <;> rfl
@[simp] theorem State.reply_admitMap (v : Option Word) : (s.reply v).admitMap = s.admitMap := by cases v <;> rfl
@[simp] theorem State.reply_portReads (v : Option Word) : (s.reply v).portReads = s.portReads := by cases v <;> rfl
@[simp] theorem State.reply_raced (v : Option Word) : (s.reply v).raced = s.raced := by cases v <;> rfl
@[simp] theorem State.reply_inputs (v : Option Word) : (s.reply v).inputs = s.inputs := by cases v <;> rfl
@[simp] theorem State.reply_chan (v : Option Word) (ch : Ch) : (s.reply v).chan ch = s.chan ch := by
  cases v <;> simp [State.reply]
@[simp] theorem State.reply_crc (v : Option Word) (ch : Ch) : (s.reply v).crc ch = s.crc ch := by simp [State.crc]
@[simp] theorem State.reply_tvalid (v : Option Word) (ch : Ch) : (s.reply v).tvalid ch = s.tvalid ch := by
  simp [State.tvalid]
@[simp] theorem State.reply_tram (v : Option Word) (ch : Ch) (i : Byte) : (s.reply v).tram ch i = s.tram ch i := by
  simp [State.tram]

/-- A read appends exactly one value to what the host has read. -/
theorem State.reply_reads (v : Option Word) : ∃ x, (s.reply v).reads = s.reads ++ [x] := by
  cases v with
  | none => exact ⟨s.free 0, rfl⟩
  | some x => exact ⟨x, rfl⟩

end Sys2Proof.Machine
end

