-- ==== Sys2Proof/Laws/Ops.lean ====
section
/-! SUPPORT. One law per shared operation: the data space's store and canonical form, raising an error, reset, the
acceptance of a command, and what each kind of step can do. -/

namespace Sys2Proof.Machine

/-! ### The data space -/

theorem Memory.byteAt_store_same (m : Memory) (a : Nat) (b : Byte) : Memory.byteAt (Memory.store m a b) a = some b := by
  induction m with
  | nil => simp [Memory.store, Memory.byteAt]
  | cons c m ih =>
    obtain ⟨k, v⟩ := c
    simp only [Memory.store]
    split
    · simp [Memory.byteAt]
    · split
      · simp [Memory.byteAt]
      · rename_i h; simp [Memory.byteAt, Ne.symm h, ih]

theorem Memory.byteAt_store_ne (m : Memory) (a x : Nat) (b : Byte) (h : x ≠ a) :
    Memory.byteAt (Memory.store m a b) x = Memory.byteAt m x := by
  induction m with
  | nil => simp [Memory.store, Memory.byteAt, Ne.symm h]
  | cons c m ih =>
    obtain ⟨k, v⟩ := c
    simp only [Memory.store]
    split
    · simp [Memory.byteAt, Ne.symm h]
    · split
      · rename_i h'; subst h'; simp [Memory.byteAt, Ne.symm h]
      · simp [Memory.byteAt, ih]

theorem Memory.wfFrom_mono {lo lo' : Nat} {m : Memory} (h : lo' ≤ lo) (hm : Memory.wfFrom lo m = true) :
    Memory.wfFrom lo' m = true := by
  cases m with
  | nil => rfl
  | cons c m =>
    simp only [Memory.wfFrom, Bool.and_eq_true, decide_eq_true_eq] at hm ⊢
    exact ⟨⟨h.trans hm.1.1, hm.1.2⟩, hm.2⟩

theorem Memory.wfFrom_store {lo a : Nat} {m : Memory} (b : Byte) (hlo : lo ≤ a) (ha : a < 2 ^ 64)
    (hm : Memory.wfFrom lo m = true) : Memory.wfFrom lo (Memory.store m a b) = true := by
  induction m generalizing lo with
  | nil => simp only [Memory.store, Memory.wfFrom, Bool.and_eq_true, decide_eq_true_eq]; exact ⟨⟨hlo, ha⟩, trivial⟩
  | cons c m ih =>
    obtain ⟨k, v⟩ := c
    simp only [Memory.wfFrom, Bool.and_eq_true, decide_eq_true_eq] at hm
    simp only [Memory.store]
    split
    · simp only [Memory.wfFrom, Bool.and_eq_true, decide_eq_true_eq]; exact ⟨⟨hlo, ha⟩, ⟨by omega, hm.1.2⟩, hm.2⟩
    · split
      · rename_i h; subst h; simp only [Memory.wfFrom, Bool.and_eq_true, decide_eq_true_eq]; exact ⟨⟨hlo, ha⟩, hm.2⟩
      · simp only [Memory.wfFrom, Bool.and_eq_true, decide_eq_true_eq]; exact ⟨hm.1, ih (by omega) hm.2⟩

/-- A store at an address of the data space keeps the canonical form. -/
theorem Memory.wf_store (m : Memory) (a : Addr) (b : Byte) (hm : Memory.wf m = true) :
    Memory.wf (Memory.store m a.toNat b) = true :=
  Memory.wfFrom_store b (Nat.zero_le _) a.isLt hm

theorem Memory.wf_nil : Memory.wf [] = true := rfl

theorem State.memByte_memWrite_same (s : State) (a : Addr) (b : Byte) : (s.memWrite a b).memByte a = b := by
  simp [State.memByte, State.memWrite, Memory.byteAt_store_same]

theorem State.memByte_memWrite_ne (s : State) (a x : Addr) (b : Byte) (h : x ≠ a) :
    (s.memWrite a b).memByte x = s.memByte x := by
  have hn : x.toNat ≠ a.toNat := fun e => h (BitVec.eq_of_toNat_eq e)
  simp [State.memByte, State.memWrite, Memory.byteAt_store_ne _ _ _ _ hn]

/-- Equal memory and equal admitted regions give equal reads. -/
theorem State.sameMemory_of_eq {s t : State} (hm : t.mem = s.mem) (ha : t.admitMap = s.admitMap) : s.SameMemory t :=
  ⟨hm, ha, fun _ => ⟨by simp [State.memByte, hm], by simp [State.memAdmit, ha]⟩⟩

/-! ### BUSY -/

theorem State.busy_eq_false_iff (s : State) : s.busy = false ↔ s.seq = .idle := by simp [State.busy]

theorem State.busy_eq_true_iff (s : State) : s.busy = true ↔ s.seq ≠ .idle := by simp [State.busy]

/-! ### Raising an error -/

@[simp] theorem State.freeTram_addr (s : State) (ch : Ch) : (s.freeTram ch).addr = s.addr := by simp [State.freeTram]
@[simp] theorem State.freeTram_len (s : State) (ch : Ch) : (s.freeTram ch).len = s.len := by simp [State.freeTram]
@[simp] theorem State.freeTram_fault (s : State) (ch : Ch) : (s.freeTram ch).fault = s.fault := by simp [State.freeTram]
@[simp] theorem State.freeTram_err (s : State) (ch : Ch) : (s.freeTram ch).err = s.err := by simp [State.freeTram]
@[simp] theorem State.freeTram_seq (s : State) (ch : Ch) : (s.freeTram ch).seq = s.seq := by simp [State.freeTram]
@[simp] theorem State.freeTram_mem (s : State) (ch : Ch) : (s.freeTram ch).mem = s.mem := by simp [State.freeTram]
@[simp] theorem State.freeTram_admitMap (s : State) (ch : Ch) : (s.freeTram ch).admitMap = s.admitMap := by simp [State.freeTram]
@[simp] theorem State.freeTram_portReads (s : State) (ch : Ch) : (s.freeTram ch).portReads = s.portReads := by simp [State.freeTram]
@[simp] theorem State.freeTram_raced (s : State) (ch : Ch) : (s.freeTram ch).raced = s.raced := by simp [State.freeTram]
@[simp] theorem State.freeTram_inputs (s : State) (ch : Ch) : (s.freeTram ch).inputs = s.inputs := by simp [State.freeTram]
@[simp] theorem State.freeTram_reads (s : State) (ch : Ch) : (s.freeTram ch).reads = s.reads := by simp [State.freeTram]
@[simp] theorem State.freeTram_count (s : State) (ch : Ch) : (s.freeTram ch).count = s.count := by simp [State.freeTram]
@[simp] theorem State.freeCrc_addr (s : State) (ch : Ch) : (s.freeCrc ch).addr = s.addr := by simp [State.freeCrc]
@[simp] theorem State.freeCrc_len (s : State) (ch : Ch) : (s.freeCrc ch).len = s.len := by simp [State.freeCrc]
@[simp] theorem State.freeCrc_fault (s : State) (ch : Ch) : (s.freeCrc ch).fault = s.fault := by simp [State.freeCrc]
@[simp] theorem State.freeCrc_err (s : State) (ch : Ch) : (s.freeCrc ch).err = s.err := by simp [State.freeCrc]
@[simp] theorem State.freeCrc_seq (s : State) (ch : Ch) : (s.freeCrc ch).seq = s.seq := by simp [State.freeCrc]
@[simp] theorem State.freeCrc_mem (s : State) (ch : Ch) : (s.freeCrc ch).mem = s.mem := by simp [State.freeCrc]
@[simp] theorem State.freeCrc_admitMap (s : State) (ch : Ch) : (s.freeCrc ch).admitMap = s.admitMap := by simp [State.freeCrc]
@[simp] theorem State.freeCrc_portReads (s : State) (ch : Ch) : (s.freeCrc ch).portReads = s.portReads := by simp [State.freeCrc]
@[simp] theorem State.freeCrc_raced (s : State) (ch : Ch) : (s.freeCrc ch).raced = s.raced := by simp [State.freeCrc]
@[simp] theorem State.freeCrc_inputs (s : State) (ch : Ch) : (s.freeCrc ch).inputs = s.inputs := by simp [State.freeCrc]
@[simp] theorem State.freeCrc_reads (s : State) (ch : Ch) : (s.freeCrc ch).reads = s.reads := by simp [State.freeCrc]
@[simp] theorem State.freeCrc_count (s : State) (ch : Ch) : (s.freeCrc ch).count = s.count := by simp [State.freeCrc]
@[simp] theorem State.freeCount_addr (s : State) : s.freeCount.addr = s.addr := by simp [State.freeCount]
@[simp] theorem State.freeCount_len (s : State) : s.freeCount.len = s.len := by simp [State.freeCount]
@[simp] theorem State.freeCount_fault (s : State) : s.freeCount.fault = s.fault := by simp [State.freeCount]
@[simp] theorem State.freeCount_err (s : State) : s.freeCount.err = s.err := by simp [State.freeCount]
@[simp] theorem State.freeCount_seq (s : State) : s.freeCount.seq = s.seq := by simp [State.freeCount]
@[simp] theorem State.freeCount_mem (s : State) : s.freeCount.mem = s.mem := by simp [State.freeCount]
@[simp] theorem State.freeCount_admitMap (s : State) : s.freeCount.admitMap = s.admitMap := by simp [State.freeCount]
@[simp] theorem State.freeCount_portReads (s : State) : s.freeCount.portReads = s.portReads := by simp [State.freeCount]
@[simp] theorem State.freeCount_raced (s : State) : s.freeCount.raced = s.raced := by simp [State.freeCount]
@[simp] theorem State.freeCount_inputs (s : State) : s.freeCount.inputs = s.inputs := by simp [State.freeCount]
@[simp] theorem State.freeCount_reads (s : State) : s.freeCount.reads = s.reads := by simp [State.freeCount]

theorem State.freeTram_chan_ne (s : State) (ch d : Ch) (h : d ≠ ch) : (s.freeTram ch).chan d = s.chan d := by
  simp [State.freeTram, State.setTram_chan_ne s ch d _ h]

theorem State.freeCrc_chan_ne (s : State) (ch d : Ch) (h : d ≠ ch) : (s.freeCrc ch).chan d = s.chan d := by
  simp [State.freeCrc, State.setCrc_chan_ne s ch d _ h]

@[simp] theorem State.freeCount_chan (s : State) (ch : Ch) : s.freeCount.chan ch = s.chan ch := by
  simp [State.freeCount]
@[simp] theorem State.freeCount_tvalid (s : State) (ch : Ch) : s.freeCount.tvalid ch = s.tvalid ch := by
  simp [State.tvalid]
@[simp] theorem State.freeCount_crc (s : State) (ch : Ch) : s.freeCount.crc ch = s.crc ch := by simp [State.crc]
@[simp] theorem State.freeCount_tram (s : State) (ch : Ch) (i : Byte) : s.freeCount.tram ch i = s.tram ch i := by
  simp [State.tram]
@[simp] theorem State.freeTram_tvalid (s : State) (ch d : Ch) : (s.freeTram ch).tvalid d = s.tvalid d := by
  simp [State.freeTram]
@[simp] theorem State.freeTram_crc (s : State) (ch d : Ch) : (s.freeTram ch).crc d = s.crc d := by simp [State.freeTram]
@[simp] theorem State.freeCrc_tvalid (s : State) (ch d : Ch) : (s.freeCrc ch).tvalid d = s.tvalid d := by
  simp [State.freeCrc]
@[simp] theorem State.freeCrc_tram (s : State) (ch d : Ch) (i : Byte) : (s.freeCrc ch).tram d i = s.tram d i := by
  simp [State.freeCrc]

@[simp] theorem State.abandon_addr (s : State) : s.abandon.addr = s.addr := by unfold State.abandon; split <;> simp
@[simp] theorem State.abandon_len (s : State) : s.abandon.len = s.len := by unfold State.abandon; split <;> simp
@[simp] theorem State.abandon_fault (s : State) : s.abandon.fault = s.fault := by unfold State.abandon; split <;> simp
@[simp] theorem State.abandon_err (s : State) : s.abandon.err = s.err := by unfold State.abandon; split <;> simp
@[simp] theorem State.abandon_seq (s : State) : s.abandon.seq = s.seq := by unfold State.abandon; split <;> simp
@[simp] theorem State.abandon_mem (s : State) : s.abandon.mem = s.mem := by unfold State.abandon; split <;> simp
@[simp] theorem State.abandon_admitMap (s : State) : s.abandon.admitMap = s.admitMap := by unfold State.abandon; split <;> simp
@[simp] theorem State.abandon_portReads (s : State) : s.abandon.portReads = s.portReads := by unfold State.abandon; split <;> simp
@[simp] theorem State.abandon_raced (s : State) : s.abandon.raced = s.raced := by unfold State.abandon; split <;> simp
@[simp] theorem State.abandon_inputs (s : State) : s.abandon.inputs = s.inputs := by unfold State.abandon; split <;> simp
@[simp] theorem State.abandon_reads (s : State) : s.abandon.reads = s.reads := by unfold State.abandon; split <;> simp
@[simp] theorem State.abandon_tvalid (s : State) (ch : Ch) : s.abandon.tvalid ch = s.tvalid ch := by
  unfold State.abandon; split <;> simp

@[simp] theorem State.raise_addr (s : State) (e : ErrCode) : (s.raise e).addr = s.addr := by simp [State.raise]
@[simp] theorem State.raise_len (s : State) (e : ErrCode) : (s.raise e).len = s.len := by simp [State.raise]
@[simp] theorem State.raise_mem (s : State) (e : ErrCode) : (s.raise e).mem = s.mem := by simp [State.raise]
@[simp] theorem State.raise_admitMap (s : State) (e : ErrCode) : (s.raise e).admitMap = s.admitMap := by simp [State.raise]
@[simp] theorem State.raise_portReads (s : State) (e : ErrCode) : (s.raise e).portReads = s.portReads := by simp [State.raise]
@[simp] theorem State.raise_raced (s : State) (e : ErrCode) : (s.raise e).raced = s.raced := by simp [State.raise]
@[simp] theorem State.raise_inputs (s : State) (e : ErrCode) : (s.raise e).inputs = s.inputs := by simp [State.raise]
@[simp] theorem State.raise_reads (s : State) (e : ErrCode) : (s.raise e).reads = s.reads := by simp [State.raise]
@[simp] theorem State.raise_fault (s : State) (e : ErrCode) : (s.raise e).fault = true := rfl
@[simp] theorem State.raise_err (s : State) (e : ErrCode) : (s.raise e).err = e := rfl
@[simp] theorem State.raise_seq (s : State) (e : ErrCode) : (s.raise e).seq = .idle := rfl
@[simp] theorem State.raise_busy (s : State) (e : ErrCode) : (s.raise e).busy = false := rfl
@[simp] theorem State.raise_tvalid (s : State) (e : ErrCode) (ch : Ch) : (s.raise e).tvalid ch = s.tvalid ch := by
  simp [State.raise]

/-- An error on an idle block is precise (R177). -/
theorem State.raise_of_idle (s : State) (e : ErrCode) (h : s.seq = .idle) :
    s.raise e = { s with fault := true, err := e } := by
  cases s; simp_all [State.raise, State.abandon]

/-- An error that aborts a fold of `f.ch` leaves the other channels, and the table of `f.ch`, alone (R177). -/
theorem State.raise_of_fold (s : State) (e : ErrCode) (f : FoldState) (h : s.seq = .fold f) :
    s.SameChannelsBut (s.raise e) f.ch ∧ s.SameTable (s.raise e) f.ch := by
  refine ⟨fun c hc => ?_, by simp, fun i => ?_⟩ <;>
    simp [State.raise, State.abandon, *, State.freeCrc_chan_ne]

/-- An error that aborts a synthesis of `ch` leaves the other channels alone (R177). -/
theorem State.raise_of_synth (s : State) (e : ErrCode) (ch : Ch) (n : Option FoldState) (h : s.seq = .synth ch n) :
    s.SameChannelsBut (s.raise e) ch := by
  intro c hc
  simp [State.raise, State.abandon, h, State.freeCrc_chan_ne _ _ _ hc, State.freeTram_chan_ne _ _ _ hc]

/-! ### Reset -/

@[simp] theorem State.applyReset_mem (s : State) : s.applyReset.mem = s.mem := by simp [State.applyReset, State.resetChan]
@[simp] theorem State.applyReset_admitMap (s : State) : s.applyReset.admitMap = s.admitMap := by simp [State.applyReset, State.resetChan]
@[simp] theorem State.applyReset_portReads (s : State) : s.applyReset.portReads = s.portReads := by simp [State.applyReset, State.resetChan]
@[simp] theorem State.applyReset_raced (s : State) : s.applyReset.raced = s.raced := by simp [State.applyReset, State.resetChan]
@[simp] theorem State.applyReset_inputs (s : State) : s.applyReset.inputs = s.inputs := by simp [State.applyReset, State.resetChan]
@[simp] theorem State.applyReset_reads (s : State) : s.applyReset.reads = s.reads := by simp [State.applyReset, State.resetChan]
@[simp] theorem State.applyReset_addr (s : State) : s.applyReset.addr = 0 := rfl
@[simp] theorem State.applyReset_len (s : State) : s.applyReset.len = 0 := rfl
@[simp] theorem State.applyReset_count (s : State) : s.applyReset.count = 0 := rfl
@[simp] theorem State.applyReset_fault (s : State) : s.applyReset.fault = false := rfl
@[simp] theorem State.applyReset_err (s : State) : s.applyReset.err = .none := rfl
@[simp] theorem State.applyReset_seq (s : State) : s.applyReset.seq = .idle := rfl

theorem State.resetChan_chan_ne (s : State) (ch d : Ch) (h : d ≠ ch) : (s.resetChan ch).chan d = s.chan d := by
  rw [State.resetChan, State.setTvalid_chan_ne _ _ _ _ h, State.setCrc_chan_ne _ _ _ _ h, State.freeTram_chan_ne _ _ _ h]

theorem State.resetChan_same (s : State) (ch : Ch) :
    ((s.resetChan ch).chan ch).crc = ch.init ∧ ((s.resetChan ch).chan ch).tvalid = false := by
  constructor
  · show (s.resetChan ch).crc ch = _; simp [State.resetChan]
  · show (s.resetChan ch).tvalid ch = _; simp [State.resetChan]

/-- Every channel after reset (R195). -/
theorem State.applyReset_chan (s : State) (ch : Ch) : s.applyReset.crc ch = ch.init ∧ s.applyReset.tvalid ch = false := by
  have key : ∃ t : State, s.applyReset.chan ch = (t.resetChan ch).chan ch := by
    simp only [State.applyReset, State.chan_mk]
    cases ch
    · exact ⟨s, by simp [State.resetChan_chan_ne]⟩
    · exact ⟨s.resetChan .w8, by simp [State.resetChan_chan_ne]⟩
    · exact ⟨(s.resetChan .w8).resetChan .w16, by simp [State.resetChan_chan_ne]⟩
    · exact ⟨((s.resetChan .w8).resetChan .w16).resetChan .w32, rfl⟩
  obtain ⟨t, ht⟩ := key
  simp only [State.crc, State.tvalid, ht]
  exact State.resetChan_same t ch

/-! ### Accepting a command -/

theorem State.accepting_of_accepts (s : State) (f : State → State) (h : s.Accepts) : s.accepting f = .next (f s) := by
  simp [State.accepting, h.1, h.2]

/-- What a command can do: it is ignored in FAULT, raises BUSY while busy, and otherwise has its own effect `f`. -/
theorem State.accepting_cases {s t : State} {f : State → State} (h : s.accepting f = .next t) :
    (s.fault = true ∧ t = s) ∨ (s.fault = false ∧ s.busy = true ∧ t = s.raise .busy) ∨ (s.Accepts ∧ t = f s) := by
  unfold State.accepting at h
  split at h
  · exact .inl ⟨‹_›, by simpa using h.symm⟩
  · split at h
    · exact .inr (.inl ⟨by simpa using ‹¬s.fault = true›, ‹_›, by simpa using h.symm⟩)
    · exact .inr (.inr ⟨⟨by simpa using ‹¬s.fault = true›, by simpa using ‹¬s.busy = true›⟩, by simpa using h.symm⟩)

/-- A command's own effect, on a block that accepts it. -/
def effect : Instr → State → State
  | .nop, s => s
  | .seed ch, s => s.setCrc ch ch.init
  | .synth ch, s => s.startSynth ch none
  | .update ch src imm, s =>
    if src = .ram ∧ s.tvalid ch = false then s.raise .notable else s.foldByte ch src imm
  | .calcLen ch src, s => s.startFold ch src .len
  | .calcz ch src, s => s.startFold ch src .z

/-- Every command is its effect under the shared rules of acceptance. -/
theorem exec_eq_accepting (i : Instr) (s : State) : exec i s = s.accepting (effect i) := by
  cases i <;> rfl

theorem exec_of_accepts (i : Instr) (s : State) (h : s.Accepts) : exec i s = .next (effect i s) := by
  rw [exec_eq_accepting, State.accepting_of_accepts s _ h]

/-- What an accepted CALC or CALCZ does: RANGE, or a fold that starts at once, or a fold behind a synthesis. -/
theorem State.startFold_cases (s : State) (ch : Ch) (src : TSrc) (mode : FoldMode) :
    (s.rangeBad = true ∧ s.startFold ch src mode = s.raise .range) ∨
    (s.rangeBad = false ∧ src = .rom ∧ s.startFold ch src mode =
      { s.setCrc ch ch.init with count := 0, raced := [], seq := .fold (s.latchFold ch src mode) }) ∨
    (s.rangeBad = false ∧ src = .ram ∧ s.startFold ch src mode =
      ({ s.setCrc ch ch.init with count := 0, raced := [] } : State).startSynth ch (some (s.latchFold ch src mode))) := by
  unfold State.startFold
  cases h : s.rangeBad <;> cases src <;> simp

theorem State.rangeBad_eq_false_iff (s : State) : s.rangeBad = false ↔ s.RangeOk := by
  simp only [State.rangeBad, State.RangeOk, Bool.and_eq_false_iff, bne_eq_false_iff_eq, decide_eq_false_iff_not, not_lt]

/-! ### The sequencer -/

/-- What a fold step can do (R144, R146): end at the bound, raise BUS, end at the terminator, or fold a byte. -/
theorem State.foldStep_cases (s : State) (f : FoldState) :
    (f.k = f.len ∧ s.foldStep f = { s with seq := .idle }) ∨
    (f.k ≠ f.len ∧ s.memAdmit f.address = false ∧ s.foldStep f = s.raise .bus) ∨
    (f.k ≠ f.len ∧ s.memAdmit f.address = true ∧ f.mode = .z ∧ s.portByte f.address = 0 ∧
      s.foldStep f = { s.issueRead f.address with seq := .idle }) ∨
    (f.k ≠ f.len ∧ s.memAdmit f.address = true ∧ ¬(f.mode = .z ∧ s.portByte f.address = 0) ∧
      s.foldStep f = (s.issueRead f.address).foldNext f (s.portByte f.address)) := by
  by_cases hk : f.k = f.len
  · exact .inl ⟨hk, by simp [State.foldStep, hk]⟩
  · cases hm : s.memAdmit f.address
    · exact .inr (.inl ⟨hk, rfl, by simp [State.foldStep, hk, hm]⟩)
    · by_cases hz : f.mode = .z ∧ s.portByte f.address = 0
      · exact .inr (.inr (.inl ⟨hk, rfl, hz.1, hz.2, by simp [State.foldStep, hk, hm, hz]⟩))
      · exact .inr (.inr (.inr ⟨hk, rfl, hz, by rw [State.foldStep, if_neg hk, if_pos hm, if_neg hz]⟩))

/-! ### Steps -/

/-- What a step can do: the sequencer's turn with nothing waiting, or the next event. -/
theorem step_cases {s t : State} (h : step s = .next t) :
    (s.inputs = [] ∧ t = s.seqStep) ∨
    ∃ e rest, s.inputs = e :: rest ∧ State.handle { s with inputs := rest } e = .next t := by
  unfold step at h
  split at h
  · exact .inl ⟨‹_›, by simpa using h.symm⟩
  · exact .inr ⟨_, _, ‹_›, h⟩

/-- What a WR can do (R163, R178). -/
theorem State.wr_cases {s t : State} {off : Offset} {size : AccessSize} {v : Word} (h : s.wr off size v = .next t) :
    (s.fault = true ∧ t = s) ∨
    (s.fault = false ∧ validAccess off size = none ∧ t = s.raise .access) ∨
    (s.fault = false ∧ s.busy = true ∧ t = s.raise .busy) ∨
    (s.Accepts ∧ ∃ r, validAccess off size = some r ∧ s.writeReg r v = .next t) := by
  unfold State.wr at h
  split at h
  · exact .inl ⟨‹_›, by simpa using h.symm⟩
  · have hf : s.fault = false := by simpa using ‹¬s.fault = true›
    split at h
    · exact .inr (.inl ⟨hf, ‹_›, by simpa using h.symm⟩)
    · split at h
      · exact .inr (.inr (.inl ⟨hf, ‹_›, by simpa using h.symm⟩))
      · exact .inr (.inr (.inr ⟨⟨hf, by simpa using ‹¬s.busy = true›⟩, _, ‹_›, h⟩))

/-- What the write effect of a register can do on a block that accepts it. -/
theorem State.writeReg_cases {s t : State} {r : Reg} {v : Word} (h : s.writeReg r v = .next t) :
    (r = .cmd ∧ ∃ e, decode v = .error e ∧ t = s.raise .illegal) ∨
    (r = .cmd ∧ ∃ i, decode v = .ok i ∧ exec i s = .next t) ∨
    (r = .addr ∧ t = { s with addr := v }) ∨ (r = .len ∧ t = { s with len := v }) ∨
    (r ≠ .cmd ∧ r ≠ .addr ∧ r ≠ .len ∧ t = s.raise .access) := by
  cases r
  case cmd =>
    simp only [State.writeReg, State.accept] at h
    split at h
    · exact .inl ⟨rfl, _, ‹_›, by simpa using h.symm⟩
    · exact .inr (.inl ⟨rfl, _, ‹_›, h⟩)
  all_goals simp_all [State.writeReg]

/-- What an RD does besides appending one value to what the host has read. -/
theorem State.rd_cases (s : State) (off : Offset) (size : AccessSize) :
    (∃ v, s.rd off size = s.reply v) ∨ (s.fault = false ∧ validAccess off size = none ∧
      s.rd off size = (s.reply none).raise .access) := by
  unfold State.rd
  split
  · exact .inl ⟨_, rfl⟩
  · cases hf : s.fault
    · exact .inr ⟨rfl, ‹_›, by simp⟩
    · exact .inl ⟨none, by simp⟩

end Sys2Proof.Machine
end

