-- ==== Sys2Proof/Laws/PerInstr.lean ====
section
/-! SUPPORT. Statements for all commands, one lemma per constructor: `Legal` says that every command is well-formed (no
operand of it can make its word illegal, 30_encoding.md R87) and that its mnemonic is one of the table's (R86). -/

namespace Sys2Proof.Laws.Legal

/-- The command is well-formed, and the opcode table has a row of its mnemonic whose pattern is the command's OP. -/
@[reducible] def Statement (i : Instr) : Prop :=
  i.wf = true ∧ ∃ r ∈ opcodeRows, r.mnemonic = i.mnemonic ∧ r.pattern = i.op.setWidth 32

theorem nop : Statement .nop := by decide

theorem seed (ch : Ch) : Statement (.seed ch) := by cases ch <;> decide

theorem synth (ch : Ch) : Statement (.synth ch) := by cases ch <;> decide

theorem update (ch : Ch) (src : TSrc) (imm : Byte) : Statement (.update ch src imm) :=
  ⟨by cases ch <;> cases src <;> rfl, ⟨"UPDATE", 0xFFFF008F, 0x00000003⟩, by decide, rfl, rfl⟩

theorem calcLen (ch : Ch) (src : TSrc) : Statement (.calcLen ch src) := by cases ch <;> cases src <;> decide

theorem calcz (ch : Ch) (src : TSrc) : Statement (.calcz ch src) := by cases ch <;> cases src <;> decide

end Sys2Proof.Laws.Legal
end

