-- ==== Sys2Proof/Tests/Slice0.lean ====
section
/-! SUPPORT. The model's own tests: ill-formed commands, words written out from the encoding, single steps whose expected
values are those of 95_test_vectors.md (or a hand evaluation of the rule a comment names), and for every obligation with
hypotheses a witness that meets all of them together. -/

namespace Sys2Proof.Tests.Slice0

open Sys2Proof Sys2Proof.Machine

/-! ### Well-formedness: one ill-formed value for each item of R87 -/

theorem test_wf_accepts_update : (Instr.update .w64 .ram 0xFF).fields.wf = true := by decide
theorem test_wf_refuses_high_bits : (⟨1, 0, 0, 0, 0, 0, 1⟩ : Fields).wf = false := by decide
theorem test_wf_refuses_bit7 : (⟨3, 0, 0, 1, 0, 0, 0⟩ : Fields).wf = false := by decide
theorem test_wf_refuses_reserved_bits : (⟨3, 0, 0, 0, 0, 1, 0⟩ : Fields).wf = false := by decide
theorem test_wf_refuses_reserved_op : (⟨6, 0, 0, 0, 0, 0, 0⟩ : Fields).wf = false := by decide
theorem test_wf_refuses_tsrc_of_seed : (⟨1, 0, 1, 0, 0, 0, 0⟩ : Fields).wf = false := by decide
theorem test_wf_refuses_imm_of_calc : (⟨4, 0, 0, 0, 1, 0, 0⟩ : Fields).wf = false := by decide
theorem test_wf_refuses_channel_of_nop : (⟨0, 1, 0, 0, 0, 0, 0⟩ : Fields).wf = false := by decide

/-! ### Decoding: words written out field by field as R81 lays them out, v[63:32], v[31:16], IMM8, bit 7, TSRC, CH, OP -/

theorem test_decode_nop : decode (0#32 ++ 0#16 ++ 0#8 ++ 0#1 ++ 0#1 ++ 0b00#2 ++ 0x0#4) = .ok .nop := by decide
theorem test_decode_seed : decode (0#32 ++ 0#16 ++ 0#8 ++ 0#1 ++ 0#1 ++ 0b11#2 ++ 0x1#4) = .ok (.seed .w64) := by decide
theorem test_decode_synth : decode (0#32 ++ 0#16 ++ 0#8 ++ 0#1 ++ 0#1 ++ 0b01#2 ++ 0x2#4) = .ok (.synth .w16) := by decide
theorem test_decode_update :
    decode (0#32 ++ 0#16 ++ 0xC1#8 ++ 0#1 ++ 1#1 ++ 0b11#2 ++ 0x3#4) = .ok (.update .w64 .ram 0xC1) := by decide
theorem test_decode_calc :
    decode (0#32 ++ 0#16 ++ 0#8 ++ 0#1 ++ 1#1 ++ 0b01#2 ++ 0x4#4) = .ok (.calcLen .w16 .ram) := by decide
theorem test_decode_calcz :
    decode (0#32 ++ 0#16 ++ 0#8 ++ 0#1 ++ 0#1 ++ 0b10#2 ++ 0x5#4) = .ok (.calcz .w32 .rom) := by decide
theorem test_decode_op15_reserved : decode 0xF = .error .reservedOp := by decide
theorem test_decode_bit63 : decode 0x8000000000000000 = .error .highBits := by decide
theorem test_decodeTableWord_update : decodeTableWord 32 0x6123 = some (.update .w32 .rom 0x61) := by decide
theorem test_asm_update : (Instr.update .w32 .rom 97).asm = "update w32, rom, 97" := by decide

/-! ### Arithmetic: entries of 95_test_vectors.md section 2.1 and rows of section 2.2 -/

theorem test_table_w8 : Ch.w8.trom 0x80 = 0x89 ∧ Ch.w8.trom 0xFF = 0xF3 := by decide +kernel
theorem test_table_w16 : Ch.w16.trom 0x80 = 0x9188 ∧ Ch.w16.trom 0xFF = 0x1EF0 := by decide +kernel
theorem test_table_w32 : Ch.w32.trom 0x01 = 0x77073096 ∧ Ch.w32.trom 0xFF = 0x2D02EF8D := by decide +kernel
theorem test_table_w64 :
    Ch.w64.trom 0x01 = 0x7AD870C830358979 ∧ Ch.w64.trom 0xFF = 0x29B7D047EFEC8728 := by decide +kernel
theorem test_update_w8 : Ch.w8.update 0x97 Ch.w8.trom 0x32 = 0x72 := by decide +kernel
theorem test_update_w16 : Ch.w16.update 0xFFFF Ch.w16.trom 0x31 = 0xC782 := by decide +kernel
theorem test_update_w64 :
    Ch.w64.update 0xFFFFFFFFFFFFFFFF Ch.w64.trom 0x6B = 0x2863769E434BEF44 := by decide +kernel
/-- D4 of section 2.4. -/
theorem test_calculate_abc :
    Ch.w8.calculate [0x61, 0x62, 0x63] = 0x5F ∧ Ch.w16.calculate [0x61, 0x62, 0x63] = 0x514A ∧
    Ch.w32.calculate [0x61, 0x62, 0x63] = 0x352441C2 ∧ Ch.w64.calculate [0x61, 0x62, 0x63] = 0xF10896EFC03E0514 := by
  decide +kernel

/-! ### Small states -/

/-- The bytes `bs` from address `a` on. -/
def place : Nat → List Byte → Memory
  | _, [] => []
  | a, b :: bs => (a, b) :: place (a + 1) bs

/-- After reset, with the buffer `bs` placed at `a` and ADDR, LEN written. -/
def withBuffer (a n : Word) (bs : List Byte) : State :=
  { State.reset with addr := a, len := n, mem := place a.toNat bs }

/-- A fold of channel 2 over that buffer, at index `k`. -/
def folding (mode : FoldMode) (n k : Word) (bs : List Byte) : State :=
  { withBuffer 0x10000 n bs with seq := .fold ⟨.w32, .rom, mode, 0x10000, n, k⟩, count := k }

/-- A synthesis of channel 1 runs. -/
def synthesizing : State := { State.reset with seq := .synth .w16 none }

/-- A CALC of channel 1 on TRAM synthesizes first. -/
def synthesizingFirst : State :=
  { withBuffer 0x10000 1 [0x31] with seq := .synth .w16 (some ⟨.w16, .ram, .len, 0x10000, 1, 0⟩) }

/-- FAULT after a NOTABLE. -/
def faulted : State := { State.reset with fault := true, err := .notable }

/-- Channel 0 has been synthesized. -/
def withTable : State := State.reset.synthStep .w8 none

/-- The state an outcome goes on to. -/
def next (o : Host.Outcome State Fault Refusal) : State :=
  match o with
  | .next s => s
  | .fault _ => State.reset
  | .refused _ => State.reset

/-- The next state of one step that runs a CMD word. -/
def afterWord (s : State) (w : Nat) : State := next (step (s.withFetchWord 32 w))

/-- The next state of one step that makes one host transaction. -/
def after (s : State) (e : Event) : State := next (step { s with inputs := [e] })

/-! ### One step per command -/

/-- A1. -/
theorem test_nop : (afterWord State.reset 0x0).status = 0x000 ∧ (afterWord State.reset 0x0).crc .w16 = 0xFFFF := by
  decide +kernel
/-- A word with a nonzero field is no NOP: section 2.7, ILLEGAL. -/
theorem test_nop_illegal : (afterWord State.reset 0x40).status = 0x012 := by decide +kernel
/-- A12. -/
theorem test_seed :
    (afterWord { State.reset with ch32 := { State.reset.ch32 with crc := 0x174841BC } } 0x21).crc .w32 = 0xFFFFFFFF := by
  decide +kernel
/-- H8: ignored in FAULT. -/
theorem test_seed_in_fault :
    (afterWord { faulted with ch32 := { State.reset.ch32 with crc := 0x174841BC } } 0x21).crc .w32 = 0x174841BC ∧
    (afterWord faulted 0x21).status = 0x022 := by decide +kernel
/-- Y2. -/
theorem test_synth_accepted : (afterWord State.reset 0x22).status = 0x001 := by decide +kernel
/-- Y3, Y4: the sequencer's step. -/
theorem test_synth_step :
    (next (step { State.reset with seq := .synth .w32 none })).status = 0x400 ∧
    (next (step { State.reset with seq := .synth .w32 none })).tram .w32 1 = 0x77073096 := by decide +kernel
/-- A6. -/
theorem test_update_rom :
    (afterWord State.reset 0x6123).crc .w32 = 0x174841BC ∧ (afterWord State.reset 0x6123).digest .w32 = 0xE8B7BE43 := by
  decide +kernel
/-- A9. -/
theorem test_update_notable :
    (afterWord State.reset 0x3143).status = 0x022 ∧ (afterWord State.reset 0x3143).crc .w8 = 0x00 := by decide +kernel
/-- K11. -/
theorem test_calc_range : (afterWord (withBuffer 0xFFFFFFFFFFFFFFFF 2 []) 0x24).status = 0x042 := by decide +kernel
/-- The first fold of "abc" (section 2.5): 0x61 takes CRC32 from INIT to 0x174841BC, COUNT to 1, and the block is BUSY. -/
theorem test_calc_fold :
    (next (step { folding .len 3 0 [0x61, 0x62, 0x63] with ch32 := Channel.reset .w32 })).crc .w32 = 0x174841BC ∧
    (next (step (folding .len 3 0 [0x61, 0x62, 0x63]))).count = 1 ∧
    (next (step (folding .len 3 0 [0x61, 0x62, 0x63]))).status = 0x001 := by decide +kernel
/-- Z8. -/
theorem test_calcz_range : (afterWord (withBuffer 0xFFFFFFFFFFFFFFFE 4 []) 0x05).status = 0x042 := by decide +kernel
/-- Z3: the 0x00 at index 2 ends the fold, unfolded and uncounted. -/
theorem test_calcz_terminator :
    (next (step (folding .z 5 2 [0x61, 0x62, 0x00, 0x63, 0x64]))).status = 0x000 ∧
    (next (step (folding .z 5 2 [0x61, 0x62, 0x00, 0x63, 0x64]))).count = 2 ∧
    (next (step (folding .z 5 2 [0x61, 0x62, 0x00, 0x63, 0x64]))).crc .w32 = 0xFFFFFFFF := by decide +kernel

/-! ### Host transactions (section 2.11) and reset -/

/-- Y7. -/
theorem test_read_trom : (after State.reset (.rd 0x1008 .b8)).reads = [0x07] := by decide +kernel
/-- H2. -/
theorem test_write_addr :
    (after State.reset (.wr 0x10 .b8 0x123456789ABCDEF0)).addr = 0x123456789ABCDEF0 := by decide +kernel
/-- H3, H4. -/
theorem test_write_read_only :
    (after State.reset (.wr 0x08 .b8 0)).status = 0x062 ∧ (after State.reset (.wr 0x70 .b8 0)).status = 0x062 := by
  decide +kernel
/-- H5, H6, H7. -/
theorem test_invalid_reads :
    (after State.reset (.rd 0x28 .b8)).status = 0x062 ∧ (after State.reset (.rd 0x0C .b8)).status = 0x062 ∧
    (after State.reset (.rd 0x08 .b4)).status = 0x062 := by decide +kernel
/-- H10. -/
theorem test_write_while_busy :
    (after (folding .len 3 1 []) (.wr 0x18 .b8 5)).status = 0x032 ∧
    (after (folding .len 3 1 []) (.wr 0x18 .b8 5)).len = 3 := by decide +kernel
/-- H11, H12: ACCESS ranks above BUSY, and BUSY above the read-only check. -/
theorem test_priority_while_busy :
    (after (folding .len 3 1 []) (.wr 0x00 .b4 0x21)).status = 0x062 ∧
    (after (folding .len 3 1 []) (.wr 0x20 .b8 0)).status = 0x032 := by decide +kernel
/-- H9: no new error in FAULT. -/
theorem test_invalid_read_in_fault : (after faulted (.rd 0x28 .b8)).status = 0x022 := by decide +kernel
/-- Y10. -/
theorem test_busy_abandons_synthesis : (after { State.reset with seq := .synth .w32 none } (.wr 0 .b8 0x01)).status = 0x032 := by
  decide +kernel
/-- K13: a refused byte raises BUS. -/
theorem test_bus :
    (next (step { folding .len 3 1 [0x61, 0x62, 0x63] with admitMap := [⟨0x10000, 1⟩] })).status = 0x052 := by
  decide +kernel
/-- H15. -/
theorem test_reset_event :
    (after faulted .reset).status = 0x000 ∧ (after faulted .reset).crc .w32 = 0xFFFFFFFF := by decide +kernel
/-- R91: the expansion of `calculate_rom w32, 0x10000, 3`. -/
theorem test_calculateRom :
    calculateRom .w32 0x10000 3 =
      [.wr 0x10 .b8 0x10000, .wr 0x18 .b8 3, .wr 0x00 .b8 0x24, .poll, .rd 0x70 .b8] := by decide
theorem test_reset_memory_wf : Memory.wf State.reset.mem = true := by decide
theorem test_store_keeps_order :
    Memory.store (Memory.store (Memory.store [] 5 1) 3 2) 5 7 = [(3, 2), (5, 7)] := by decide

/-! ### Witnesses: for every obligation with hypotheses, a concrete state and operands that meet all of them together -/

theorem reset_accepts : State.reset.Accepts := ⟨rfl, rfl⟩
theorem withBuffer_accepts (a n : Word) (bs : List Byte) : (withBuffer a n bs).Accepts := ⟨rfl, rfl⟩

/-- A region that covers the data space admits every address. -/
theorem admits_of_whole (s : State) (h : s.admitMap = [⟨0, 2 ^ 64⟩]) (a : Addr) : s.memAdmit a = true := by
  simp [State.memAdmit, h, Region.holds, a.isLt]

theorem withBuffer_admits (a n : Word) (bs : List Byte) (k : Nat) : (withBuffer a n bs).AdmitsFirst k :=
  fun _ _ => admits_of_whole _ rfl _

/-- A state in which no table is valid meets the invariant's table clause. -/
theorem inv_of_no_table (s : State) (hm : Memory.wf s.mem = true) (hf : s.FaultConsistent)
    (ht : ∀ ch, s.tvalid ch = false) (hs : s.SeqConsistent) : s.Inv :=
  ⟨hm, hf, fun ch i h => by simp [ht ch] at h, hs⟩

theorem folding_inv : (folding .len 3 1 [0x61, 0x62, 0x63]).Inv :=
  inv_of_no_table _ (by decide) ⟨by decide, by decide⟩ (fun ch => by cases ch <;> rfl)
    ⟨by decide, ⟨by decide, .inr (by decide)⟩, rfl⟩
theorem synthesizing_inv : synthesizing.Inv :=
  inv_of_no_table _ (by decide) ⟨by decide, by decide⟩ (fun ch => by cases ch <;> rfl) rfl
theorem synthesizingFirst_inv : synthesizingFirst.Inv :=
  inv_of_no_table _ (by decide) ⟨by decide, by decide⟩ (fun ch => by cases ch <;> rfl)
    ⟨rfl, rfl, rfl, rfl, ⟨by decide, .inr (by decide)⟩, rfl⟩
theorem faulted_inv : faulted.Inv :=
  inv_of_no_table _ (by decide) ⟨by decide, fun _ => rfl⟩ (fun ch => by cases ch <;> rfl) trivial
theorem withBuffer_inv : (withBuffer 0x10000 1 [0x61]).Inv :=
  inv_of_no_table _ (by decide) ⟨by decide, fun _ => rfl⟩ (fun ch => by cases ch <;> rfl) trivial

theorem withTable_tables : withTable.TableConsistent := by
  intro ch i h
  cases ch with
  | w8 => simp [withTable, State.synthStep, Ch.trom]
  | w16 => cases h
  | w32 => cases h
  | w64 => cases h

theorem witness_DecodeInvertsEncode :
    Instr.nop.wf = true ∧ (Instr.seed .w64).wf = true ∧ (Instr.synth .w8).wf = true ∧
    (Instr.update .w64 .ram 0xFF).wf = true ∧ (Instr.calcLen .w64 .ram).wf = true ∧
    (Instr.calcz .w8 .rom).wf = true := by decide
theorem witness_EncodeInvertsDecode : decode 0xFF73 = .ok (.update .w64 .ram 0xFF) := by decide
/-- One value for each item of R87, at the lowest bit of the item's field, and a state that accepts. -/
theorem witness_IllegalValuesAreThoseOfR87 :
    State.reset.Accepts ∧ (∃ e, decode 0x100000000 = .error e) ∧ (∃ e, decode 0x83 = .error e) ∧
    (∃ e, decode 0x10003 = .error e) ∧ (∃ e, decode 0x6 = .error e) ∧ (∃ e, decode 0x42 = .error e) ∧
    (∃ e, decode 0x105 = .error e) ∧ (∃ e, decode 0x10 = .error e) :=
  ⟨reset_accepts, ⟨_, rfl⟩, ⟨_, rfl⟩, ⟨_, rfl⟩, ⟨_, rfl⟩, ⟨_, rfl⟩, ⟨_, rfl⟩, ⟨_, rfl⟩⟩
theorem witness_OpcodeRowsAreDisjoint :
    (∃ r ∈ opcodeRows, r.selects 0xFF73 = true) ∧ decode 0xFF73 = .ok (.update .w64 .ram 0xFF) :=
  ⟨⟨⟨"UPDATE", 0xFFFF008F, 0x00000003⟩, by decide, by decide⟩, by decide⟩
theorem witness_RegisterMapIsOneToOne :
    regAt 0x4FF8 = some (.tbl .w64 .ram 0xFF) ∧ regAt 0x1000 = some (.tbl .w8 .rom 0) ∧
    regAt 0x78 = some (.digest .w64) := by decide
theorem witness_TableEntriesAreLinear : Ch.w8.synthEntry 0xFF = Ch.w8.synthEntry 0xFF := rfl
theorem witness_StaticEvaluatorsEqualCalculate : (0 : Byte) ∈ [0x61, 0x00, 0x62] := by decide
theorem witness_NopChangesNothing : State.reset.Accepts := reset_accepts
theorem witness_SeedLoadsInitialValue : (withBuffer 0x10000 3 []).Accepts := withBuffer_accepts ..
theorem witness_UpdateFoldsOneByte : withTable.Accepts ∧ withTable.tvalid .w8 = true := ⟨⟨rfl, rfl⟩, rfl⟩
theorem witness_UpdateWithoutTableRaisesNotable : State.reset.Accepts ∧ State.reset.tvalid .w8 = false :=
  ⟨reset_accepts, rfl⟩
theorem witness_UpdateIgnoresTableSource :
    withTable.Accepts ∧ withTable.TableConsistent ∧ withTable.tvalid .w8 = true :=
  ⟨⟨rfl, rfl⟩, withTable_tables, rfl⟩
theorem witness_SynthFillsTable : State.reset.Accepts ∧ State.reset.inputs = [] := ⟨reset_accepts, rfl⟩
/-- LEN 0 at the top address (K12), and ADDR + LEN = 2^64 exactly (K10). -/
theorem witness_BufferCommandsStart :
    ((withBuffer 0xFFFFFFFFFFFFFFFF 0 []).Accepts ∧ (withBuffer 0xFFFFFFFFFFFFFFFF 0 []).RangeOk) ∧
    ((withBuffer 0xFFFFFFFFFFFFFFFF 1 []).Accepts ∧ (withBuffer 0xFFFFFFFFFFFFFFFF 1 []).RangeOk) :=
  ⟨⟨withBuffer_accepts .., .inl rfl⟩, withBuffer_accepts .., .inr (by decide)⟩
theorem witness_WrappingRangeRaisesRange :
    (withBuffer 0xFFFFFFFFFFFFFFFF 2 []).Accepts ∧ (withBuffer 0xFFFFFFFFFFFFFFFF 2 []).len ≠ 0 ∧
    2 ^ 64 < (withBuffer 0xFFFFFFFFFFFFFFFF 2 []).addr.toNat + (withBuffer 0xFFFFFFFFFFFFFFFF 2 []).len.toNat :=
  ⟨withBuffer_accepts .., by decide, by decide⟩
theorem witness_CommandsInFaultAreIgnored : faulted.fault = true := rfl
theorem witness_CommandsWhileBusyRaiseBusy :
    (synthesizing.fault = false ∧ synthesizing.busy = true ∧ synthesizing.seq = .synth .w16 none) ∧
    ((folding .z 3 3 []).fault = false ∧ (folding .z 3 3 []).busy = true ∧
      (folding .z 3 3 []).seq = .fold ⟨.w32, .rom, .z, 0x10000, 3, 3⟩) := ⟨⟨rfl, rfl, rfl⟩, rfl, rfl, rfl⟩
theorem witness_SeedThenUpdatesComputeDigest :
    withTable.Accepts ∧ withTable.TableConsistent ∧ (∃ b, (TSrc.ram, b) ∈ [(TSrc.ram, (0x61 : Byte)), (.rom, 0x62)]) ∧
    withTable.tvalid .w8 = true := ⟨⟨rfl, rfl⟩, withTable_tables, ⟨0x61, by decide⟩, rfl⟩
/-- k = len; a byte that is not admitted; and the last byte of the buffer, admitted and not raced. -/
theorem witness_CalcFoldStep :
    (let s := folding .len 3 3 []; ∃ f, s.inputs = [] ∧ s.seq = .fold f ∧ f.mode = .len ∧ f.k = f.len) ∧
    (let s := { folding .len 3 0 [] with admitMap := [] };
      ∃ f, s.inputs = [] ∧ s.seq = .fold f ∧ f.mode = .len ∧ f.k ≠ f.len ∧ s.memAdmit (f.base + f.k) = false) ∧
    (let s := folding .len 3 2 [0x61, 0x62, 0x63];
      ∃ f, s.inputs = [] ∧ s.seq = .fold f ∧ f.mode = .len ∧ f.k ≠ f.len ∧ s.memAdmit (f.base + f.k) = true ∧
        f.base + f.k ∉ s.raced) :=
  ⟨⟨_, rfl, rfl, rfl, rfl⟩, ⟨_, rfl, rfl, rfl, by decide, rfl⟩, ⟨_, rfl, rfl, rfl, by decide, by decide, by decide⟩⟩
theorem witness_CalczFoldStep :
    (let s := folding .z 3 3 []; ∃ f, s.inputs = [] ∧ s.seq = .fold f ∧ f.mode = .z ∧ f.k = f.len) ∧
    (let s := { folding .z 3 0 [] with admitMap := [] };
      ∃ f, s.inputs = [] ∧ s.seq = .fold f ∧ f.mode = .z ∧ f.k ≠ f.len ∧ s.memAdmit (f.base + f.k) = false) ∧
    (let s := folding .z 3 2 [0x61, 0x62, 0x00];
      ∃ f, s.inputs = [] ∧ s.seq = .fold f ∧ f.mode = .z ∧ f.k ≠ f.len ∧ s.memAdmit (f.base + f.k) = true ∧
        f.base + f.k ∉ s.raced ∧ s.memByte (f.base + f.k) = 0) ∧
    (let s := folding .z 3 2 [0x61, 0x62, 0x01];
      ∃ f, s.inputs = [] ∧ s.seq = .fold f ∧ f.mode = .z ∧ f.k ≠ f.len ∧ s.memAdmit (f.base + f.k) = true ∧
        f.base + f.k ∉ s.raced ∧ s.memByte (f.base + f.k) ≠ 0) :=
  ⟨⟨_, rfl, rfl, rfl, rfl⟩, ⟨_, rfl, rfl, rfl, by decide, rfl⟩,
    ⟨_, rfl, rfl, rfl, by decide, by decide, by decide, by decide⟩,
    ⟨_, rfl, rfl, rfl, by decide, by decide, by decide, by decide⟩⟩
/-- A write by another agent while a fold runs, and a raced byte about to be read, in both modes of the fold. -/
theorem witness_RacedReadFoldsSomeByte :
    (let s := { folding .len 3 2 [0x61, 0x62, 0x63] with inputs := [.memWrite 0x10002 0x7A, .tick] };
      s.busy = true ∧ s.inputs = .memWrite 0x10002 0x7A :: [.tick]) ∧
    (let s := { folding .len 3 2 [0x61, 0x62, 0x63] with raced := [0x10002], inputs := [.tick] };
      ∃ f, s.seq = .fold f ∧ f.mode = .len ∧ f.k ≠ f.len ∧ s.memAdmit (f.base + f.k) = true ∧
        f.base + f.k ∈ s.raced ∧ s.inputs = .tick :: []) ∧
    (let s := { folding .z 3 2 [0x61, 0x62, 0x63] with raced := [0x10002], inputs := [.tick] };
      ∃ f, s.seq = .fold f ∧ f.mode = .z ∧ f.k ≠ f.len ∧ s.memAdmit (f.base + f.k) = true ∧
        f.base + f.k ∈ s.raced ∧ s.inputs = .tick :: []) :=
  ⟨⟨rfl, rfl⟩, ⟨_, rfl, rfl, by decide, by decide, by decide, rfl⟩, _, rfl, rfl, by decide, by decide, by decide, rfl⟩
theorem witness_BufferCommandsTouchOneChannel :
    ((withBuffer 0x10000 1 [0x61]).Accepts ∧ ∃ t, exec (.calcLen .w32 .rom) (withBuffer 0x10000 1 [0x61]) = .next t) ∧
    (∃ f, synthesizingFirst.seq = .synth .w16 (some f)) ∧ ∃ f, (folding .z 3 0 []).seq = .fold f :=
  ⟨⟨withBuffer_accepts .., _, rfl⟩, ⟨_, rfl⟩, _, rfl⟩
theorem witness_SequencerFinishes :
    (faulted.Inv ∧ faulted.inputs = []) ∧ (synthesizing.Inv ∧ synthesizing.inputs = []) ∧
    (synthesizingFirst.Inv ∧ synthesizingFirst.inputs = []) ∧
    ((folding .len 3 1 [0x61, 0x62, 0x63]).Inv ∧ (folding .len 3 1 [0x61, 0x62, 0x63]).inputs = []) :=
  ⟨⟨faulted_inv, rfl⟩, ⟨synthesizing_inv, rfl⟩, ⟨synthesizingFirst_inv, rfl⟩, folding_inv, rfl⟩
/-- K10: the last byte of the data space. -/
theorem witness_CalcComputesDigest :
    let s := withBuffer 0xFFFFFFFFFFFFFFFF 1 [0xFF]
    s.Accepts ∧ s.inputs = [] ∧ s.RangeOk ∧ s.AdmitsFirst s.len.toNat ∧ s.buffer = [0xFF] :=
  ⟨withBuffer_accepts .., rfl, .inr (by decide), withBuffer_admits _ _ _ _, by decide⟩
/-- A terminator at index 2 of 5, with nothing admitted after it; and no terminator within LEN. -/
theorem witness_CalczComputesDigest :
    (let s := { withBuffer 0x10000 5 [0x61, 0x62, 0x00, 0x63, 0x64] with admitMap := [⟨0x10000, 3⟩] };
      s.Accepts ∧ s.inputs = [] ∧ s.RangeOk ∧ 2 = (beforeZero s.buffer).length ∧ s.AdmitsFirst (min (2 + 1) s.len.toNat)) ∧
    (let s := withBuffer 0x10000 2 [0x61, 0x62];
      s.Accepts ∧ s.inputs = [] ∧ s.RangeOk ∧ 2 = (beforeZero s.buffer).length ∧
        s.AdmitsFirst (min (2 + 1) s.len.toNat)) :=
  ⟨⟨⟨rfl, rfl⟩, rfl, .inr (by decide), by decide, by unfold State.AdmitsFirst; decide⟩,
    ⟨rfl, rfl⟩, rfl, .inr (by decide), by decide, withBuffer_admits _ _ _ _⟩
/-- K13. -/
theorem witness_CalcStopsAtFirstRefusedByte :
    let s := { withBuffer 0x10000 3 [0x61, 0x62, 0x63] with admitMap := [⟨0x10000, 1⟩] }
    s.Accepts ∧ s.inputs = [] ∧ s.RangeOk ∧ 1 < s.len.toNat ∧ s.AdmitsFirst 1 ∧
      s.memAdmit (s.addr + BitVec.ofNat 64 1) = false :=
  ⟨⟨rfl, rfl⟩, rfl, .inr (by decide), by decide, by unfold State.AdmitsFirst; decide, by decide⟩
/-- "abc" at 0x10000 beside a valid table of channel 0. -/
def tableAndBuffer : State := { withTable with addr := 0x10000, len := 3, mem := place 0x10000 [0x61, 0x62, 0x63] }

theorem tableAndBuffer_tables : tableAndBuffer.TableConsistent := by
  intro ch i h
  cases ch with
  | w8 => simp [tableAndBuffer, withTable, State.synthStep, Ch.trom]
  | w16 => cases h
  | w32 => cases h
  | w64 => cases h

/-- X1 to X4: "abc" alone, and with a 0x00 and more bytes after it. -/
theorem witness_StrategiesAgree :
    (let s := tableAndBuffer;
      s.Accepts ∧ s.inputs = [] ∧ s.RangeOk ∧ s.AdmitsFirst s.len.toNat ∧ s.TableConsistent ∧
        s.buffer = [0x61, 0x62, 0x63] ∧ (0 : Byte) ∉ ([0x61, 0x62, 0x63] : List Byte) ∧ s.tvalid .w8 = true) ∧
    (let s := withBuffer 0x10000 5 [0x61, 0x62, 0x63, 0x00, 0x64];
      s.Accepts ∧ s.inputs = [] ∧ s.RangeOk ∧ s.AdmitsFirst s.len.toNat ∧
        ∃ rest, s.buffer = [0x61, 0x62, 0x63] ++ 0 :: rest) :=
  ⟨⟨⟨rfl, rfl⟩, rfl, .inr (by decide), fun _ _ => admits_of_whole _ rfl _, tableAndBuffer_tables, by decide, by decide, rfl⟩,
    withBuffer_accepts .., rfl, .inr (by decide), withBuffer_admits _ _ _ _, [0x64], by decide⟩
/-- Two runs over equal bytes at different addresses and on different tables, each to its end. -/
theorem witness_DigestDependsOnBytesOnly :
    let s := withBuffer 0x10000 1 [0x61]
    let s' := withBuffer 0xFFFFFFFFFFFFFFFF 1 [0x61]
    s.Accepts ∧ s'.Accepts ∧ s.inputs = [] ∧ s'.inputs = [] ∧ s.RangeOk ∧ s'.RangeOk ∧ s.AdmitsFirst s.len.toNat ∧
      s'.AdmitsFirst s'.len.toNat ∧ s.buffer = s'.buffer ∧ beforeZero s.buffer = beforeZero s'.buffer ∧
      (∃ t u, exec (.calcLen .w8 .rom) s = .next t ∧ run 2 t = .next u ∧ u.busy = false) ∧
      (∃ t u, exec (.calcLen .w8 .ram) s' = .next t ∧ run 3 t = .next u ∧ u.busy = false) ∧
      (∃ t u, exec (.calcz .w8 .rom) s = .next t ∧ run 2 t = .next u ∧ u.busy = false) ∧
      ∃ t u, exec (.calcz .w8 .ram) s' = .next t ∧ run 3 t = .next u ∧ u.busy = false :=
  ⟨withBuffer_accepts .., withBuffer_accepts .., rfl, rfl, .inr (by decide), .inr (by decide), withBuffer_admits _ _ _ _,
    withBuffer_admits _ _ _ _, by decide, by decide, ⟨_, _, rfl, rfl, rfl⟩, ⟨_, _, rfl, rfl, rfl⟩,
    ⟨_, _, rfl, rfl, rfl⟩, _, _, rfl, rfl, rfl⟩
theorem witness_ReadsReturnRegisters :
    (faulted.fault = true ∧ synthesizing.busy = true ∧ Reg.cmd ≠ .status) ∧
    (withTable.Accepts ∧ withTable.tvalid .w8 = true ∧ withTable.tvalid .w64 = false) :=
  ⟨⟨rfl, rfl, by decide⟩, ⟨rfl, rfl⟩, rfl, rfl⟩
theorem witness_AccessesWhileBusyOrInFault :
    (synthesizing.fault = false ∧ synthesizing.busy = true) ∧ faulted.fault = true ∧ Reg.tbl .w64 .ram 255 ≠ .status :=
  ⟨⟨rfl, rfl⟩, rfl, by decide⟩
/-- The edges of the mapped ranges (R161), a misaligned offset and a narrow access, on an idle, a busy and a faulted
block. -/
theorem witness_InvalidTransactionsRaiseAccess :
    (validAccess 0x28 .b8 = none ∧ validAccess 0x38 .b8 = none ∧ validAccess 0x80 .b8 = none ∧
      validAccess 0x0FF8 .b8 = none ∧ validAccess 0x5000 .b8 = none ∧ validAccess 0x0C .b8 = none ∧
      validAccess 0x08 .b4 = none) ∧
    (validAccess 0x20 .b8 = some .count ∧ validAccess 0x40 .b8 = some (.crc .w8) ∧
      validAccess 0x78 .b8 = some (.digest .w64) ∧ validAccess 0x1000 .b8 = some (.tbl .w8 .rom 0) ∧
      validAccess 0x4FF8 .b8 = some (.tbl .w64 .ram 255)) ∧
    (State.reset.fault = false ∧ State.reset.busy = false) ∧ synthesizing.fault = false ∧ faulted.fault = true :=
  ⟨by decide, by decide, ⟨rfl, rfl⟩, rfl, rfl⟩
theorem witness_WritesByRegister :
    faulted.fault = true ∧ (synthesizing.fault = false ∧ synthesizing.busy = true) ∧
    (State.reset.fault = false ∧ State.reset.busy = false) := ⟨rfl, ⟨rfl, rfl⟩, rfl, rfl⟩
theorem witness_AcceptanceByOpcode :
    State.reset.Accepts ∧ illegal 0x10 = true ∧ illegal 0x0 = false ∧ illegal 0x31 = false ∧ illegal 0x32 = false ∧
    illegal 0xFF73 = false ∧ illegal 0x74 = false ∧ illegal 0x75 = false :=
  ⟨reset_accepts, by decide, by decide, by decide, by decide, by decide, by decide, by decide⟩
theorem witness_ErrorPriority :
    faulted.fault = true ∧ (synthesizing.fault = false ∧ synthesizing.busy = true ∧ validAccess 0x00 .b4 = none ∧
      validAccess 0x20 .b8 = some .count) ∧
    (State.reset.Accepts ∧ validAccess 0x20 .b8 = some .count ∧ validAccess 0x00 .b8 = some .cmd ∧
      illegal 0x10 = true ∧ decode 0x3143 = .ok (.update .w8 .ram 0x31) ∧ State.reset.tvalid .w8 = false) ∧
    (withBuffer 0xFFFFFFFFFFFFFFFF 2 []).Accepts ∧ decode 0x24 = .ok (.calcLen .w32 .rom) ∧
      decode 0x25 = .ok (.calcz .w32 .rom) ∧ ¬ (withBuffer 0xFFFFFFFFFFFFFFFF 2 []).RangeOk ∧
    (∃ s : State, (s.rd 0x28 .b8).err = .bus ∧ ∃ t, s.wr 0x28 .b8 0 = .next t ∧ t.err = .bus) :=
  ⟨rfl, ⟨rfl, rfl, by decide, by decide⟩, ⟨reset_accepts, by decide, by decide, by decide, by decide, rfl⟩,
    withBuffer_accepts .., by decide, by decide, fun h => absurd h (by unfold State.RangeOk; decide),
    { faulted with err := .bus }, rfl, _, rfl, rfl⟩
theorem witness_RaisingAnError :
    State.reset.seq = .idle ∧ (∃ f, (folding .len 3 1 []).seq = .fold f) ∧ ∃ ch n, synthesizing.seq = .synth ch n :=
  ⟨rfl, ⟨_, rfl⟩, _, _, rfl⟩
theorem witness_OnlyResetLeavesFault :
    let s := { faulted with inputs := [.wr 0x00 .b8 0x02] }
    s.Inv ∧ s.fault = true ∧ s.inputs.head? ≠ some .reset ∧ ∃ t, step s = .next t :=
  ⟨inv_of_no_table _ (by decide) ⟨by decide, fun _ => rfl⟩ (fun ch => by cases ch <;> rfl) trivial, rfl, by decide, _, rfl⟩
/-- A state of the invariant for each error, with the step that records it: an illegal word, a missing table, a write while
BUSY, a range that wraps, a byte not admitted, an unmapped read and a write to STATUS; and a step that records none. -/
theorem witness_ErrIsTheFirstErrorsCode :
    (let s := { withBuffer 0x10000 1 [0x61] with inputs := [.wr 0x00 .b8 0x10] };
      s.Inv ∧ s.fault = false ∧ ∃ t, step s = .next t ∧ t.fault = true ∧ t.err = .illegal) ∧
    (let s := { withBuffer 0x10000 1 [0x61] with inputs := [.wr 0x00 .b8 0x3143] };
      s.Inv ∧ s.fault = false ∧ ∃ t, step s = .next t ∧ t.fault = true ∧ t.err = .notable) ∧
    (let s := { synthesizing with inputs := [.wr 0x18 .b8 5] };
      s.Inv ∧ s.fault = false ∧ ∃ t, step s = .next t ∧ t.fault = true ∧ t.err = .busy) ∧
    (let s := { withBuffer 0xFFFFFFFFFFFFFFFF 2 [] with inputs := [.wr 0x00 .b8 0x24] };
      s.Inv ∧ s.fault = false ∧ ∃ t, step s = .next t ∧ t.fault = true ∧ t.err = .range) ∧
    (let s := { folding .len 3 1 [0x61, 0x62, 0x63] with admitMap := [] };
      s.Inv ∧ s.fault = false ∧ ∃ t, step s = .next t ∧ t.fault = true ∧ t.err = .bus) ∧
    (let s := { withBuffer 0x10000 1 [0x61] with inputs := [.rd 0x28 .b8] };
      s.Inv ∧ s.fault = false ∧ ∃ t, step s = .next t ∧ t.fault = true ∧ t.err = .access) ∧
    (let s := { withBuffer 0x10000 1 [0x61] with inputs := [.wr 0x08 .b8 0] };
      s.Inv ∧ s.fault = false ∧ ∃ t, step s = .next t ∧ t.fault = true ∧ t.err = .access) ∧
    (withBuffer 0x10000 1 [0x61]).Inv ∧ (withBuffer 0x10000 1 [0x61]).fault = false ∧
      ∃ t, step (withBuffer 0x10000 1 [0x61]) = .next t ∧ t.fault = false :=
  ⟨⟨inv_of_no_table _ (by decide) ⟨by decide, by decide⟩ (fun ch => by cases ch <;> rfl) trivial, rfl, _, rfl, rfl, rfl⟩,
    ⟨inv_of_no_table _ (by decide) ⟨by decide, by decide⟩ (fun ch => by cases ch <;> rfl) trivial, rfl, _, rfl, rfl, rfl⟩,
    ⟨inv_of_no_table _ (by decide) ⟨by decide, by decide⟩ (fun ch => by cases ch <;> rfl) rfl, rfl, _, rfl, rfl, rfl⟩,
    ⟨inv_of_no_table _ (by decide) ⟨by decide, by decide⟩ (fun ch => by cases ch <;> rfl) trivial, rfl, _, rfl, rfl, rfl⟩,
    ⟨inv_of_no_table _ (by decide) ⟨by decide, by decide⟩ (fun ch => by cases ch <;> rfl)
      ⟨by decide, ⟨by decide, .inr (by decide)⟩, rfl⟩, rfl, _, rfl, rfl, rfl⟩,
    ⟨inv_of_no_table _ (by decide) ⟨by decide, by decide⟩ (fun ch => by cases ch <;> rfl) trivial, rfl, _, rfl, rfl, rfl⟩,
    ⟨inv_of_no_table _ (by decide) ⟨by decide, by decide⟩ (fun ch => by cases ch <;> rfl) trivial, rfl, _, rfl, rfl, rfl⟩,
    withBuffer_inv, rfl, _, rfl, rfl⟩
theorem witness_ResetFromAnyState :
    { synthesizing with inputs := [.reset, .poll] }.inputs = .reset :: [.poll] := rfl
theorem witness_StepKeepsInvariant :
    (folding .len 3 1 [0x61, 0x62, 0x63]).Inv ∧ ∃ t, step (folding .len 3 1 [0x61, 0x62, 0x63]) = .next t :=
  ⟨folding_inv, _, rfl⟩
theorem witness_StepRunsTheDecodedCommand :
    ({ faulted with inputs := [.wr 0x0000 .b8 0x3143] }.inputs = .wr 0x0000 .b8 0x3143 :: [] ∧
      decode 0x3143 = .ok (.update .w8 .ram 0x31)) ∧ decodeTableWord 32 0xFF73 = some (.update .w64 .ram 0xFF) :=
  ⟨⟨rfl, by decide⟩, by decide⟩
/-- A SEED, a fold and an aborted synthesis each change a CRC (the last one to a free value, so it is left out here). -/
theorem witness_CrcIsWrittenOnlyByItsCommands :
    (∃ t, step ((State.setCrc State.reset .w32 0).withFetchWord 32 0x21) = .next t ∧
      t.crc .w32 ≠ ((State.setCrc State.reset .w32 0).withFetchWord 32 0x21).crc .w32) ∧
    ∃ t, step (folding .len 3 0 [0x61, 0x62, 0x63]) = .next t ∧
      t.crc .w32 ≠ (folding .len 3 0 [0x61, 0x62, 0x63]).crc .w32 :=
  ⟨⟨_, rfl, by decide +kernel⟩, _, rfl, by decide +kernel⟩
theorem witness_AddrAndLenAreWrittenOnlyByTheHost :
    (let s := { State.reset with inputs := [.wr 0x10 .b8 7] }; ∃ t, step s = .next t ∧ t.addr ≠ s.addr) ∧
    (let s := { State.reset with inputs := [.wr 0x18 .b8 7] }; ∃ t, step s = .next t ∧ t.len ≠ s.len) :=
  ⟨⟨_, rfl, by decide⟩, _, rfl, by decide⟩
theorem witness_TvalidIsWrittenOnlyBySynthesis :
    (∃ t, step synthesizing = .next t ∧ t.tvalid .w16 ≠ synthesizing.tvalid .w16) ∧
    (∃ t, step (withTable.withFetchWord 32 0x02) = .next t ∧ t.tvalid .w8 ≠ (withTable.withFetchWord 32 0x02).tvalid .w8) ∧
    ∃ t, step { withTable with inputs := [.reset] } = .next t ∧
      t.tvalid .w8 ≠ ({ withTable with inputs := [.reset] } : State).tvalid .w8 :=
  ⟨⟨_, rfl, by decide +kernel⟩, ⟨_, rfl, by decide +kernel⟩, _, rfl, by decide +kernel⟩
theorem witness_CountIsWrittenOnlyByBufferCommands :
    (∃ t, step (folding .len 3 0 [0x61, 0x62, 0x63]) = .next t ∧ t.count ≠ (folding .len 3 0 [0x61, 0x62, 0x63]).count) ∧
    ∃ t, step (({ State.reset with count := 9 } : State).withFetchWord 32 0x24) = .next t ∧
      t.count ≠ (({ State.reset with count := 9 } : State).withFetchWord 32 0x24).count :=
  ⟨⟨_, rfl, by decide +kernel⟩, _, rfl, by decide +kernel⟩
theorem witness_BusyIsSetOnlyByLongCommands :
    (∃ t, step (State.reset.withFetchWord 32 0x02) = .next t ∧ t.busy = true) ∧
    (State.reset.withFetchWord 32 0x02).busy = false ∧ ∃ t, step (State.reset.withFetchWord 32 0x25) = .next t ∧
      t.busy = true := ⟨⟨_, rfl, rfl⟩, rfl, _, rfl, rfl⟩
theorem witness_BlockNeverWritesMemory :
    (∀ a b, (folding .len 3 0 []).inputs.head? ≠ some (.memWrite a b)) ∧
    ({ synthesizing with inputs := [.memWrite 0xFFFFFFFFFFFFFFFF 1] } : State).inputs.head?
      = some (.memWrite 0xFFFFFFFFFFFFFFFF 1) ∧
    ∃ t, step { synthesizing with inputs := [.memWrite 0xFFFFFFFFFFFFFFFF 1] } = .next t :=
  ⟨fun _ _ h => (nomatch h), rfl, _, rfl⟩
theorem witness_ChannelsDoNotInteract :
    (State.reset.Accepts ∧ (Instr.update .w32 .rom 0x61).channel ≠ some .w64 ∧
      ∃ t, exec (.update .w32 .rom 0x61) State.reset = .next t) ∧
    (∀ n, (folding .len 3 0 []).seq ≠ .synth .w8 n) ∧ ∀ f, (folding .len 3 0 []).seq = .fold f → f.ch ≠ .w8 :=
  ⟨⟨reset_accepts, by decide, _, rfl⟩, fun _ h => (nomatch h), fun f h => by cases h; decide⟩
theorem witness_PollEnds :
    let s := { folding .len 3 1 [0x61, 0x62, 0x63] with inputs := [.poll] }
    s.Inv ∧ s.inputs = [.poll] ∧ s.fault = false ∧ s.AdmitsRest :=
  ⟨inv_of_no_table _ (by decide) ⟨by decide, by decide⟩ (fun ch => by cases ch <;> rfl)
    ⟨by decide, ⟨by decide, .inr (by decide)⟩, rfl⟩, rfl, rfl, fun _ _ _ _ _ => admits_of_whole _ rfl _⟩
/-- A program of each shape, the one over a buffer that ends at the top of the data space (K10). -/
theorem witness_HostProgramsReturnTheDigest :
    (let s := { withBuffer 0xFFFFFFFFFFFFFFFF 0 [0xFF] with inputs := calculateRam .w32 0xFFFFFFFFFFFFFFFF 1 };
      s.Accepts ∧ ({ s with addr := 0xFFFFFFFFFFFFFFFF, len := 1 } : State).RangeOk ∧
        ({ s with addr := 0xFFFFFFFFFFFFFFFF, len := 1 } : State).AdmitsFirst (1 : Word).toNat ∧
        s.inputs = calculateRam .w32 0xFFFFFFFFFFFFFFFF 1) ∧
    (let s := { withBuffer 0x10000 0 [0x61, 0x00] with inputs := calculateStatic .w64 0x10000 2 };
      s.Accepts ∧ ({ s with addr := 0x10000, len := 2 } : State).RangeOk ∧
        ({ s with addr := 0x10000, len := 2 } : State).AdmitsFirst (2 : Word).toNat ∧
        s.inputs = calculateStatic .w64 0x10000 2) ∧
    (let s := { State.reset with inputs := calculateStaticSeq .w8 [0x61, 0x00] };
      s.Accepts ∧ s.inputs = calculateStaticSeq .w8 [0x61, 0x00]) :=
  ⟨⟨⟨rfl, rfl⟩, .inr (by decide), fun _ _ => admits_of_whole _ rfl _, rfl⟩,
    ⟨⟨rfl, rfl⟩, .inr (by decide), fun _ _ => admits_of_whole _ rfl _, rfl⟩, ⟨rfl, rfl⟩, rfl⟩
/-- R207: a pending write of another agent does not delay the end of a program, and a pending transaction does. -/
theorem test_ended :
    ({ State.reset with inputs := [.memWrite 0 1] } : State).Ended ∧
    ¬ ({ State.reset with inputs := [.rd 0x70 .b8] } : State).Ended :=
  ⟨⟨by decide, rfl⟩, fun h => absurd (h.1 (.rd 0x70 .b8) (by decide)) (by decide)⟩

end Sys2Proof.Tests.Slice0
end

section
/-! SUPPORT. Who writes the state of the block (10_state.md): the bits of STATUS; what one step of the whole machine can do,
said once as `StepEffect`, and from it the writers of CRC, ADDR, LEN, TVALID, COUNT and BUSY; and the independence of the
channels, as the commands and the sequencer's steps commuting with the replacement of another channel. -/

namespace Sys2Proof.Machine

/-! ### STATUS -/

/-- Every bit of STATUS (R33). -/
theorem State.status_getLsbD (s : State) (i : Nat) :
    s.status.getLsbD i =
      if i < 1 then s.busy else if i < 2 then s.fault else if i < 4 then false
      else if i < 8 then s.err.code.getLsbD (i - 4) else if i < 12 then s.tvalidBits.getLsbD (i - 8) else false := by
  rw [State.status, BitVec.getLsbD_setWidth]
  simp only [BitVec.getLsbD_append, Nat.sub_sub]
  by_cases h : i < 12
  · interval_cases i <;> simp
  · obtain ⟨j, rfl⟩ := Nat.exists_eq_add_of_le' (Nat.not_lt.mp h)
    simp

theorem State.status_getLsbD_of_le (s : State) {i : Nat} (h : 12 ≤ i) : s.status.getLsbD i = false := by
  rw [State.status_getLsbD, if_neg, if_neg, if_neg, if_neg, if_neg] <;> omega

theorem State.status_err_bits (s : State) : s.status.extractLsb' 4 4 = s.err.code := by
  refine BitVec.eq_of_getLsbD_eq fun i hi => ?_
  rw [BitVec.getLsbD_extractLsb', State.status_getLsbD]
  interval_cases i <;> simp

theorem State.status_bits_3_2 (s : State) : s.status.extractLsb' 2 2 = 0 := by
  refine BitVec.eq_of_getLsbD_eq fun i hi => ?_
  rw [BitVec.getLsbD_extractLsb', State.status_getLsbD]
  interval_cases i <;> simp

theorem State.status_bits_63_12 (s : State) : s.status.extractLsb' 12 52 = 0 := by
  refine BitVec.eq_of_getLsbD_eq fun i hi => ?_
  rw [BitVec.getLsbD_extractLsb', s.status_getLsbD_of_le (Nat.le_add_right 12 i), Bool.and_false]
  exact (BitVec.getLsbD_zero).symm

/-- The TVALID bits from bit 0 on, one for each channel number (R37). -/
theorem State.tvalidBits_getLsbD (s : State) :
    s.tvalidBits.getLsbD 0 = s.tvalid .w8 ∧ s.tvalidBits.getLsbD 1 = s.tvalid .w16 ∧
    s.tvalidBits.getLsbD 2 = s.tvalid .w32 ∧ s.tvalidBits.getLsbD 3 = s.tvalid .w64 := by
  rw [State.tvalidBits]
  simp only [BitVec.getLsbD_append]
  simp

/-- A read of STATUS is exact in every state (R162). -/
theorem State.rd_status (s : State) : s.rd 0x0008 .b8 = { s with reads := s.reads ++ [s.status] } := rfl

/-- Settles O34, from the bits of STATUS and the exact read of it. -/
theorem statusFieldsAtTheirBits : Obligations.StatusFieldsAtTheirBits := by
  intro s
  obtain ⟨h8, h16, h32, h64⟩ := s.tvalidBits_getLsbD
  exact ⟨s.status_getLsbD 0, s.status_getLsbD 1, s.status_bits_3_2, s.status_err_bits,
    ⟨(s.status_getLsbD 8).trans h8, (s.status_getLsbD 9).trans h16, (s.status_getLsbD 10).trans h32,
      (s.status_getLsbD 11).trans h64⟩, s.status_bits_63_12, s.rd_status⟩

/-! ### What one step can do to the block -/

theorem State.Accepts.idle {s : State} (h : s.Accepts) : s.seq = .idle := s.busy_eq_false_iff.1 h.2

/-- Every state element of the block is unchanged: the channels, ADDR, LEN, COUNT, FAULT, ERR and the sequencer. -/
structure State.SameBlock (s t : State) : Prop where
  channels : s.SameChannels t
  addr : t.addr = s.addr
  len : t.len = s.len
  count : t.count = s.count
  fault : t.fault = s.fault
  err : t.err = s.err
  seq : t.seq = s.seq

theorem State.SameBlock.refl (s : State) : s.SameBlock s := ⟨fun _ => rfl, rfl, rfl, rfl, rfl, rfl, rfl⟩

theorem State.SameBlock.trans {s t u : State} (h : s.SameBlock t) (h' : t.SameBlock u) : s.SameBlock u :=
  ⟨fun c => (h'.channels c).trans (h.channels c), h'.addr.trans h.addr, h'.len.trans h.len, h'.count.trans h.count,
    h'.fault.trans h.fault, h'.err.trans h.err, h'.seq.trans h.seq⟩

section
variable {s t : State} (h : s.SameBlock t)
include h

theorem State.SameBlock.crc (ch : Ch) : t.crc ch = s.crc ch := congrArg Channel.crc (h.channels ch)

theorem State.SameBlock.tvalid (ch : Ch) : t.tvalid ch = s.tvalid ch := congrArg Channel.tvalid (h.channels ch)

theorem State.SameBlock.busy : t.busy = s.busy := by rw [State.busy, h.seq, State.busy]

theorem State.SameBlock.accepts (ha : t.Accepts) : s.Accepts := ⟨h.fault ▸ ha.1, h.busy ▸ ha.2⟩

end

theorem State.sameBlock_inputs (s : State) (is : List Event) : s.SameBlock { s with inputs := is } :=
  ⟨fun c => by simp, rfl, rfl, rfl, rfl, rfl, rfl⟩

theorem State.sameBlock_reply (s : State) (v : Option Word) : s.SameBlock (s.reply v) :=
  ⟨fun c => by simp, by simp, by simp, by simp, by simp, by simp, by simp⟩

theorem State.sameBlock_memWrite (s : State) (a : Addr) (b : Byte) : s.SameBlock (s.memWrite a b) :=
  ⟨fun c => by simp [State.memWrite], rfl, rfl, rfl, rfl, rfl, rfl⟩

theorem State.sameBlock_pollOnce (s : State) : s.SameBlock s.pollOnce := by
  have hr := s.sameBlock_reply (some s.status)
  unfold State.pollOnce
  split
  · exact hr.trans (State.sameBlock_inputs _ _)
  · exact hr

/-- What a step that takes the event `e` (or `none` where nothing waits) does to the block: nothing, a reset, a turn of the
sequencer, an error, a write of ADDR or LEN, or the effect of an accepted command. -/
inductive StepEffect (e : Option Event) (s : State) : State → Prop
  | unchanged {t : State} (h : s.SameBlock t) : StepEffect e s t
  | reset (he : e = some .reset) : StepEffect e s s.applyReset
  | sequencer : StepEffect e s s.seqStep
  | error (c : ErrCode) : StepEffect e s (s.raise c)
  | addr (v : Word) (ha : s.Accepts) (he : e = some (.wr 0x0010 .b8 v)) : StepEffect e s { s with addr := v }
  | len (v : Word) (ha : s.Accepts) (he : e = some (.wr 0x0018 .b8 v)) : StepEffect e s { s with len := v }
  | command (v : Word) (i : Instr) (ha : s.Accepts) (he : e = some (.wr 0x0000 .b8 v)) (hd : decode v = .ok i) :
      StepEffect e s (effect i s)

/-- A valid access to CMD, ADDR or LEN is 8 bytes wide and at the register's own offset (R38, R161): no other branch
of the register map answers one of them. -/
theorem offset_of_validAccess {off : Offset} {size : AccessSize} {r : Reg} (h : validAccess off size = some r)
    (hr : r = .cmd ∨ r = .addr ∨ r = .len) : size = .b8 ∧ off = offsetOf r := by
  obtain ⟨hs, hoff⟩ : size = .b8 ∧ regAt off = some r := by simpa [validAccess] using h
  refine ⟨hs, ?_⟩
  unfold regAt at hoff
  split_ifs at hoff <;> cases hoff <;> simp_all [offsetOf]

/-- What a WR does to the block. -/
theorem stepEffect_wr {s t : State} {off : Offset} {size : AccessSize} {v : Word} (h : s.wr off size v = .next t) :
    StepEffect (some (.wr off size v)) s t := by
  obtain ⟨-, rfl⟩ | ⟨-, -, rfl⟩ | ⟨-, -, rfl⟩ | ⟨ha, r, hr, hw⟩ := State.wr_cases h
  · exact .unchanged (.refl _)
  · exact .error _
  · exact .error _
  · obtain ⟨-, -, -, rfl⟩ | ⟨rfl, i, hd, hx⟩ | ⟨rfl, rfl⟩ | ⟨rfl, rfl⟩ | ⟨-, -, -, rfl⟩ := State.writeReg_cases hw
    · exact .error _
    · obtain ⟨rfl, rfl⟩ := offset_of_validAccess hr (by simp)
      obtain rfl : effect i s = t := by simpa [exec_of_accepts i s ha] using hx
      exact .command v i ha rfl hd
    · obtain ⟨rfl, rfl⟩ := offset_of_validAccess hr (by simp)
      exact .addr v ha rfl
    · obtain ⟨rfl, rfl⟩ := offset_of_validAccess hr (by simp)
      exact .len v ha rfl
    · exact .error _

/-- What an event does to the block, after a change of the host's side at most (the value a failing read returns). -/
theorem stepEffect_handle {s t : State} {e : Event} (h : s.handle e = .next t) :
    ∃ u, s.SameBlock u ∧ StepEffect (some e) u t := by
  cases e with
  | rd off size =>
    obtain rfl : s.rd off size = t := by simpa [State.handle] using h
    obtain ⟨v, hv⟩ | ⟨-, -, hv⟩ := s.rd_cases off size
    · exact ⟨s, .refl s, hv ▸ .unchanged (s.sameBlock_reply v)⟩
    · exact ⟨s.reply none, s.sameBlock_reply none, hv ▸ .error _⟩
  | wr off size v => exact ⟨s, .refl s, stepEffect_wr h⟩
  | poll => cases h; exact ⟨s, .refl s, .unchanged s.sameBlock_pollOnce⟩
  | tick => cases h; exact ⟨s, .refl s, .sequencer⟩
  | reset => cases h; exact ⟨s, .refl s, .reset rfl⟩
  | memWrite a b => cases h; exact ⟨s, .refl s, .unchanged (s.sameBlock_memWrite a b)⟩

/-- What a step does to the block, after the event is taken from those that wait. -/
theorem stepEffect_step {s t : State} (h : step s = .next t) :
    ∃ u, s.SameBlock u ∧ StepEffect s.inputs.head? u t := by
  obtain ⟨-, rfl⟩ | ⟨e, rest, hin, he⟩ := step_cases h
  · exact ⟨s, .refl s, .sequencer⟩
  · obtain ⟨u, hu, heff⟩ := stepEffect_handle he
    exact ⟨u, (s.sameBlock_inputs rest).trans hu, by simpa [hin] using heff⟩

/-! ### What an error changes -/

/-- An error changes a channel only where it aborts that channel's fold or synthesis (R177). -/
theorem State.raise_chan_changed {s : State} {c : ErrCode} {ch : Ch} (h : (s.raise c).chan ch ≠ s.chan ch) :
    (∃ f, s.seq = .fold f ∧ f.ch = ch) ∨ ∃ n, s.seq = .synth ch n := by
  cases hs : s.seq with
  | idle => simp [State.raise_of_idle s c hs] at h
  | synth d n =>
    by_cases hd : ch = d
    · exact .inr ⟨n, by rw [hd]⟩
    · exact absurd (s.raise_of_synth c d n hs ch hd) h
  | fold f =>
    by_cases hd : ch = f.ch
    · exact .inl ⟨f, rfl, hd.symm⟩
    · exact absurd ((s.raise_of_fold c f hs).1 ch hd) h

/-- An error that aborts nothing leaves COUNT (R177). -/
theorem State.raise_count_of_idle {s : State} (c : ErrCode) (h : s.seq = .idle) : (s.raise c).count = s.count := by
  rw [State.raise_of_idle s c h]

/-- An error that aborts nothing leaves every channel (R177). -/
theorem State.raise_chan_of_idle {s : State} (c : ErrCode) (h : s.seq = .idle) (ch : Ch) :
    (s.raise c).chan ch = s.chan ch := by
  rw [State.raise_of_idle s c h, State.chan_mk]

/-! ### What a turn of the sequencer changes -/

/-- A fold step changes its own channel only. -/
theorem State.foldStep_chan_ne {s : State} {f : FoldState} (hs : s.seq = .fold f) {ch : Ch} (hne : ch ≠ f.ch) :
    (s.foldStep f).chan ch = s.chan ch := by
  obtain ⟨-, he⟩ | ⟨-, -, he⟩ | ⟨-, -, -, -, he⟩ | ⟨-, -, -, he⟩ := s.foldStep_cases f
  · simp [he]
  · exact he ▸ (s.raise_of_fold _ f hs).1 ch hne
  · simp [he]
  · simp [he, State.foldNext, State.foldByte, State.setCrc_chan_ne _ _ _ _ hne]

/-- What every fold step leaves: TVALID of every channel, ADDR and LEN. -/
theorem State.foldStep_frame (s : State) (f : FoldState) :
    (∀ ch, (s.foldStep f).tvalid ch = s.tvalid ch) ∧ (s.foldStep f).addr = s.addr ∧ (s.foldStep f).len = s.len := by
  obtain ⟨-, he⟩ | ⟨-, -, he⟩ | ⟨-, -, -, -, he⟩ | ⟨-, -, -, he⟩ := s.foldStep_cases f <;>
    simp [he, State.foldNext, State.foldByte]

@[simp] theorem State.foldStep_tvalid (s : State) (f : FoldState) (ch : Ch) :
    (s.foldStep f).tvalid ch = s.tvalid ch := (s.foldStep_frame f).1 ch

@[simp] theorem State.synthStep_crc (s : State) (c ch : Ch) (n : Option FoldState) :
    (s.synthStep c n).crc ch = s.crc ch := by
  simp [State.synthStep]

theorem State.synthStep_tvalid_same (s : State) (ch : Ch) (n : Option FoldState) :
    (s.synthStep ch n).tvalid ch = true := by
  simp [State.synthStep]

theorem State.synthStep_chan_ne (s : State) {c ch : Ch} (n : Option FoldState) (hne : ch ≠ c) :
    (s.synthStep c n).chan ch = s.chan ch := by
  simp [State.synthStep, State.setTvalid_chan_ne _ _ _ _ hne, State.setTram_chan_ne _ _ _ _ hne]

theorem State.seqStep_of_idle {s : State} (h : s.seq = .idle) : s.seqStep = s := by simp [State.seqStep, h]

theorem State.seqStep_of_synth {s : State} {ch : Ch} {n : Option FoldState} (h : s.seq = .synth ch n) :
    s.seqStep = s.synthStep ch n := by
  simp [State.seqStep, h]

theorem State.seqStep_of_fold {s : State} {f : FoldState} (h : s.seq = .fold f) : s.seqStep = s.foldStep f := by
  simp [State.seqStep, h]

/-- The sequencer writes neither ADDR nor LEN (R28, R29). -/
theorem State.seqStep_addrLen (s : State) : s.SameAddrLen s.seqStep := by
  unfold State.SameAddrLen State.seqStep
  split
  · exact ⟨rfl, rfl⟩
  · simp [State.synthStep]
  · exact (s.foldStep_frame _).2

/-- The sequencer writes CRC[ch] only in a fold of that channel. -/
theorem State.seqStep_crc_changed {s : State} {ch : Ch} (h : s.seqStep.crc ch ≠ s.crc ch) :
    ∃ f, s.seq = .fold f ∧ f.ch = ch := by
  cases hs : s.seq with
  | idle => simp [State.seqStep_of_idle hs] at h
  | synth c n => simp [State.seqStep_of_synth hs] at h
  | fold f =>
    refine ⟨f, rfl, ?_⟩
    by_contra hne
    rw [State.seqStep_of_fold hs] at h
    exact h (congrArg Channel.crc (State.foldStep_chan_ne hs (Ne.symm hne)))

/-- The sequencer writes TVALID[ch] only at the completion of a synthesis of that channel, and to 1. -/
theorem State.seqStep_tvalid_changed {s : State} {ch : Ch} (h : s.seqStep.tvalid ch ≠ s.tvalid ch) :
    s.seqStep.tvalid ch = true ∧ ∃ n, s.seq = .synth ch n := by
  cases hs : s.seq with
  | idle => simp [State.seqStep_of_idle hs] at h
  | fold f => simp [State.seqStep_of_fold hs] at h
  | synth c n =>
    rw [State.seqStep_of_synth hs] at h ⊢
    by_cases hc : ch = c
    · subst hc; exact ⟨s.synthStep_tvalid_same ch n, n, rfl⟩
    · exact absurd (congrArg Channel.tvalid (s.synthStep_chan_ne n hc)) h

/-! ### What an accepted command changes -/

/-- What an accepted UPDATE does: NOTABLE, or one byte folded (R124). -/
theorem effect_update_cases (ch : Ch) (src : TSrc) (imm : Byte) (s : State) :
    effect (.update ch src imm) s = s.raise .notable ∨ effect (.update ch src imm) s = s.foldByte ch src imm :=
  ite_eq_or_eq ..

theorem State.startFold_addrLen (s : State) (ch : Ch) (src : TSrc) (mode : FoldMode) :
    s.SameAddrLen (s.startFold ch src mode) := by
  obtain ⟨-, he⟩ | ⟨-, -, he⟩ | ⟨-, -, he⟩ := s.startFold_cases ch src mode <;>
    simp [he, State.SameAddrLen, State.startSynth]

/-- No command writes ADDR or LEN (R28, R29). -/
theorem effect_addrLen (i : Instr) (s : State) : s.SameAddrLen (effect i s) := by
  cases i with
  | nop => exact ⟨rfl, rfl⟩
  | seed ch => simp [effect, State.SameAddrLen]
  | synth ch => simp [effect, State.SameAddrLen, State.startSynth]
  | update ch src imm =>
    obtain he | he := effect_update_cases ch src imm s <;> simp [he, State.SameAddrLen, State.foldByte]
  | calcLen ch src => exact s.startFold_addrLen ch src .len
  | calcz ch src => exact s.startFold_addrLen ch src .z

section
variable {s : State} (hs : s.seq = .idle)
include hs

theorem State.startFold_chan_ne {ch d : Ch} (src : TSrc) (mode : FoldMode) (hd : d ≠ ch) :
    (s.startFold ch src mode).chan d = s.chan d := by
  obtain ⟨-, he⟩ | ⟨-, -, he⟩ | ⟨-, -, he⟩ := s.startFold_cases ch src mode
  · rw [he, State.raise_chan_of_idle _ hs]
  · simp [he, State.setCrc_chan_ne _ _ _ _ hd]
  · simp [he, State.startSynth, State.setTvalid_chan_ne _ _ _ _ hd, State.setCrc_chan_ne _ _ _ _ hd]

/-- A command changes no channel but its own (R23). -/
theorem effect_chan_ne {i : Instr} {d : Ch} (hd : i.channel ≠ some d) : (effect i s).chan d = s.chan d := by
  have ne {ch : Ch} (h : some ch ≠ some d) : d ≠ ch := fun e => h (congrArg some e.symm)
  cases i with
  | nop => rfl
  | seed ch => exact s.setCrc_chan_ne ch d _ (ne hd)
  | synth ch => simp [effect, State.startSynth, State.setTvalid_chan_ne _ _ _ _ (ne hd)]
  | update ch src imm =>
    obtain he | he := effect_update_cases ch src imm s
    · rw [he, State.raise_chan_of_idle _ hs]
    · rw [he, State.foldByte, State.setCrc_chan_ne _ _ _ _ (ne hd)]
  | calcLen ch src => exact State.startFold_chan_ne hs src .len (ne hd)
  | calcz ch src => exact State.startFold_chan_ne hs src .z (ne hd)

/-- The commands that write CRC[ch]: SEED, UPDATE, CALC and CALCZ of that channel (R24). -/
theorem effect_crc_changed {i : Instr} {ch : Ch} (h : (effect i s).crc ch ≠ s.crc ch) :
    i = .seed ch ∨ (∃ src imm, i = .update ch src imm) ∨ (∃ src, i = .calcLen ch src) ∨ ∃ src, i = .calcz ch src := by
  have hch : i.channel = some ch := by
    by_contra hne
    exact h (congrArg Channel.crc (effect_chan_ne hs hne))
  cases i <;> simp only [Instr.channel, reduceCtorEq, Option.some.injEq] at hch <;> subst hch
  case seed => exact .inl rfl
  case synth => simp [effect, State.startSynth] at h
  case update src imm => exact .inr (.inl ⟨src, imm, rfl⟩)
  case calcLen src => exact .inr (.inr (.inl ⟨src, rfl⟩))
  case calcz src => exact .inr (.inr (.inr ⟨src, rfl⟩))

theorem State.startFold_count {ch : Ch} {src : TSrc} {mode : FoldMode} :
    (s.startFold ch src mode).count = s.count ∨ (s.startFold ch src mode).count = 0 := by
  obtain ⟨-, he⟩ | ⟨-, -, he⟩ | ⟨-, -, he⟩ := s.startFold_cases ch src mode
  · exact .inl (he ▸ State.raise_count_of_idle _ hs)
  · exact .inr (by rw [he])
  · exact .inr (by simp [he, State.startSynth])

/-- The commands that write COUNT: CALC and CALCZ, which clear it (R30). -/
theorem effect_count_changed {i : Instr} (h : (effect i s).count ≠ s.count) :
    (effect i s).count = 0 ∧ ∃ ch src, i = .calcLen ch src ∨ i = .calcz ch src := by
  cases i with
  | nop => exact absurd rfl h
  | seed ch => simp [effect] at h
  | synth ch => simp [effect, State.startSynth] at h
  | update ch src imm =>
    obtain he | he := effect_update_cases ch src imm s
    · exact absurd (he ▸ State.raise_count_of_idle _ hs) h
    · simp [he, State.foldByte] at h
  | calcLen ch src => exact ⟨(State.startFold_count hs).resolve_left h, ch, src, .inl rfl⟩
  | calcz ch src => exact ⟨(State.startFold_count hs).resolve_left h, ch, src, .inr rfl⟩

/-- The commands that set BUSY: SYNTH, CALC and CALCZ (R34, R205). -/
theorem effect_busy {i : Instr} (h : (effect i s).busy = true) :
    (∃ ch, i = .synth ch) ∨ (∃ ch src, i = .calcLen ch src) ∨ ∃ ch src, i = .calcz ch src := by
  cases i with
  | nop => simp [effect, State.busy, hs] at h
  | seed ch => simp [effect, State.busy, hs] at h
  | synth ch => exact .inl ⟨ch, rfl⟩
  | update ch src imm =>
    obtain he | he := effect_update_cases ch src imm s <;> simp [he, State.foldByte, State.busy, hs] at h
  | calcLen ch src => exact .inr (.inl ⟨ch, src, rfl⟩)
  | calcz ch src => exact .inr (.inr ⟨ch, src, rfl⟩)

end

/-- A synthesis of `c` that starts clears TVALID[c] and sets BUSY; it changes no other TVALID (R26). -/
theorem State.startSynth_tvalid_changed {s : State} {c ch : Ch} {n : Option FoldState}
    (h : (s.startSynth c n).tvalid ch ≠ s.tvalid ch) :
    c = ch ∧ (s.startSynth c n).tvalid ch = false ∧ (s.startSynth c n).busy = true := by
  by_cases hc : ch = c
  · subst hc; exact ⟨rfl, by simp [State.startSynth], rfl⟩
  · have he := congrArg Channel.tvalid (s.setTvalid_chan_ne c ch false hc)
    simp only [State.startSynth, State.tvalid_mk] at h
    exact absurd he h

theorem State.startFold_tvalid_changed {s : State} {c ch : Ch} {src : TSrc} {mode : FoldMode}
    (h : (s.startFold c src mode).tvalid ch ≠ s.tvalid ch) :
    src = .ram ∧ c = ch ∧ (s.startFold c src mode).tvalid ch = false ∧ (s.startFold c src mode).busy = true := by
  obtain ⟨-, he⟩ | ⟨-, -, he⟩ | ⟨-, hsrc, he⟩ := s.startFold_cases c src mode
  · simp [he] at h
  · simp [he] at h
  · rw [he] at h ⊢
    exact ⟨hsrc, State.startSynth_tvalid_changed (by simpa using h)⟩

/-- The commands that write TVALID[ch]: those that start a synthesis of that channel (R26). -/
theorem effect_tvalid_changed {s : State} {i : Instr} {ch : Ch} (h : (effect i s).tvalid ch ≠ s.tvalid ch) :
    (effect i s).tvalid ch = false ∧ (effect i s).busy = true ∧
      (i = .synth ch ∨ i = .calcLen ch .ram ∨ i = .calcz ch .ram) := by
  cases i with
  | nop => exact absurd rfl h
  | seed c => simp [effect] at h
  | synth c =>
    obtain ⟨rfl, hv, hb⟩ := State.startSynth_tvalid_changed h
    exact ⟨hv, hb, .inl rfl⟩
  | update c src imm =>
    obtain he | he := effect_update_cases c src imm s <;> simp [he, State.foldByte] at h
  | calcLen c src =>
    obtain ⟨rfl, rfl, hv, hb⟩ := State.startFold_tvalid_changed h
    exact ⟨hv, hb, .inr (.inl rfl)⟩
  | calcz c src =>
    obtain ⟨rfl, rfl, hv, hb⟩ := State.startFold_tvalid_changed h
    exact ⟨hv, hb, .inr (.inr rfl)⟩

/-! ### The writers of each state element -/

/-- Settles O50: of the effects of a step, the ones that reach CRC[ch]. -/
theorem crcIsWrittenOnlyByItsCommands : Obligations.CrcIsWrittenOnlyByItsCommands := by
  intro s t ch hstep hne
  obtain ⟨u, hu, heff⟩ := stepEffect_step hstep
  rw [← hu.crc ch] at hne
  rw [← hu.seq]
  cases heff with
  | unchanged h => exact absurd (h.crc ch) hne
  | reset he => exact .inl he
  | sequencer => exact .inr (.inr (.inl (State.seqStep_crc_changed hne)))
  | error c =>
    obtain hf | ⟨n, hn⟩ := State.raise_chan_changed fun h => hne (congrArg Channel.crc h)
    · exact .inr (.inr (.inl hf))
    · exact .inr (.inr (.inr ⟨n, hn, rfl⟩))
  | addr v ha he => simp at hne
  | len v ha he => simp at hne
  | command v i ha he hd =>
    exact .inr (.inl ⟨hu.accepts ha, v, i, he, hd, effect_crc_changed ha.idle hne⟩)

/-- Settles O51: every effect of a step but reset and a write of ADDR or LEN leaves both. -/
theorem addrAndLenAreWrittenOnlyByTheHost : Obligations.AddrAndLenAreWrittenOnlyByTheHost := by
  intro s t hstep
  obtain ⟨u, hu, heff⟩ := stepEffect_step hstep
  rw [← hu.addr, ← hu.len]
  cases heff with
  | unchanged h => exact ⟨absurd h.addr, absurd h.len⟩
  | reset he => exact ⟨fun _ => .inl he, fun _ => .inl he⟩
  | sequencer => exact ⟨absurd u.seqStep_addrLen.1, absurd u.seqStep_addrLen.2⟩
  | error c => exact ⟨absurd (u.raise_addr c), absurd (u.raise_len c)⟩
  | addr v ha he => exact ⟨fun _ => .inr ⟨hu.accepts ha, he⟩, absurd rfl⟩
  | len v ha he => exact ⟨absurd rfl, fun _ => .inr ⟨hu.accepts ha, he⟩⟩
  | command v i ha he hd => exact ⟨absurd (effect_addrLen i u).1, absurd (effect_addrLen i u).2⟩

/-- Settles O52: of the effects of a step, the ones that reach TVALID[ch]; an error is none of them. -/
theorem tvalidIsWrittenOnlyBySynthesis : Obligations.TvalidIsWrittenOnlyBySynthesis := by
  intro s t ch hstep hne
  obtain ⟨u, hu, heff⟩ := stepEffect_step hstep
  rw [← hu.tvalid ch] at hne
  rw [← hu.seq]
  cases heff with
  | unchanged h => exact absurd (h.tvalid ch) hne
  | reset he => exact .inl ⟨he, (u.applyReset_chan ch).2⟩
  | sequencer => exact .inr (.inl (State.seqStep_tvalid_changed hne))
  | error c => exact absurd (u.raise_tvalid c ch) hne
  | addr v ha he => simp at hne
  | len v ha he => simp at hne
  | command v i ha he hd =>
    obtain ⟨hv, hb, hi⟩ := effect_tvalid_changed hne
    exact .inr (.inr ⟨hv, hb, hu.accepts ha, v, i, he, hd, hi⟩)

/-- Settles O53: on an idle block neither an error nor the sequencer reaches COUNT. -/
theorem countIsWrittenOnlyByBufferCommands : Obligations.CountIsWrittenOnlyByBufferCommands := by
  intro s t hstep hne
  obtain ⟨u, hu, heff⟩ := stepEffect_step hstep
  rw [← hu.count] at hne
  cases hb : s.busy
  case true => exact .inr (.inl rfl)
  case false =>
    have hidle : u.seq = .idle := hu.seq.trans (s.busy_eq_false_iff.1 hb)
    cases heff with
    | unchanged h => exact absurd h.count hne
    | reset he => exact .inl he
    | sequencer => exact absurd (congrArg State.count (State.seqStep_of_idle hidle)) hne
    | error c => exact absurd (State.raise_count_of_idle c hidle) hne
    | addr v ha he => exact absurd rfl hne
    | len v ha he => exact absurd rfl hne
    | command v i ha he hd =>
      obtain ⟨hz, ch, src, rfl | rfl⟩ := effect_count_changed hidle hne
      · exact .inr (.inr ⟨hz, hu.accepts ha, v, ch, src, he, .inl hd⟩)
      · exact .inr (.inr ⟨hz, hu.accepts ha, v, ch, src, he, .inr hd⟩)

/-- Settles O54: on an idle block only an accepted command makes the sequencer leave Idle. -/
theorem busyIsSetOnlyByLongCommands : Obligations.BusyIsSetOnlyByLongCommands := by
  intro s t hstep hs ht
  obtain ⟨u, hu, heff⟩ := stepEffect_step hstep
  have hidle : u.seq = .idle := hu.seq.trans (s.busy_eq_false_iff.1 hs)
  have hnot : t.seq ≠ .idle := t.busy_eq_true_iff.1 ht
  cases heff with
  | unchanged h => exact absurd (h.seq.trans hidle) hnot
  | reset he => exact absurd rfl hnot
  | sequencer => exact absurd ((congrArg State.seq (State.seqStep_of_idle hidle)).trans hidle) hnot
  | error c => exact absurd rfl hnot
  | addr v ha he => exact absurd hidle hnot
  | len v ha he => exact absurd hidle hnot
  | command v i ha he hd =>
    refine ⟨(hu.accepts ha).1, v, he, ?_⟩
    obtain ⟨ch, rfl⟩ | ⟨ch, src, rfl⟩ | ⟨ch, src, rfl⟩ := effect_busy hidle ht
    · exact .inl ⟨ch, hd⟩
    · exact .inr (.inl ⟨ch, src, hd⟩)
    · exact .inr (.inr ⟨ch, src, hd⟩)

/-! ### Replacing a channel commutes with what does not address it -/

section
variable (s : State) {c d : Ch} (x : Channel c.width)

@[simp] theorem State.setChan_rangeBad : (s.setChan c x).rangeBad = s.rangeBad := by simp [State.rangeBad]

@[simp] theorem State.setChan_latchFold (ch : Ch) (src : TSrc) (mode : FoldMode) :
    (s.setChan c x).latchFold ch src mode = s.latchFold ch src mode := by
  simp [State.latchFold]

@[simp] theorem State.setChan_memAdmit (a : Addr) : (s.setChan c x).memAdmit a = s.memAdmit a := by
  simp [State.memAdmit]

@[simp] theorem State.setChan_free (i : Nat) : (s.setChan c x).free i = s.free i := by simp [State.free]

@[simp] theorem State.setChan_portByte (a : Addr) : (s.setChan c x).portByte a = s.portByte a := by
  simp [State.portByte, State.memByte]

theorem State.drawn_setChan (n : Nat) : (s.setChan c x).drawn n = (s.drawn n).setChan c x := by cases c <;> rfl

theorem State.freeCount_setChan : (s.setChan c x).freeCount = s.freeCount.setChan c x := by cases c <;> rfl

theorem State.issueRead_setChan (a : Addr) : (s.setChan c x).issueRead a = (s.issueRead a).setChan c x := by
  cases c <;> rfl

theorem State.withSeq_setChan (q : Seq) :
    ({ s.setChan c x with seq := q } : State) = ({ s with seq := q } : State).setChan c x := by
  cases c <;> rfl

theorem State.withCountSeq_setChan (n : Word) (q : Seq) :
    ({ s.setChan c x with count := n, seq := q } : State) = ({ s with count := n, seq := q } : State).setChan c x := by
  cases c <;> rfl

theorem State.withCountRaced_setChan (n : Word) (r : List Addr) :
    ({ s.setChan c x with count := n, raced := r } : State) =
      ({ s with count := n, raced := r } : State).setChan c x := by
  cases c <;> rfl

variable (hne : d ≠ c)
include hne

theorem State.setChan_comm (y : Channel d.width) :
    (s.setChan c x).setChan d y = (s.setChan d y).setChan c x := by
  cases c <;> cases d <;> simp_all [State.setChan]

theorem State.crc_setChan_ne : (s.setChan c x).crc d = s.crc d :=
  congrArg Channel.crc (s.chan_setChan_ne c d x hne)

theorem State.tvalid_setChan_ne : (s.setChan c x).tvalid d = s.tvalid d :=
  congrArg Channel.tvalid (s.chan_setChan_ne c d x hne)

theorem State.table_setChan_ne (src : TSrc) : (s.setChan c x).table d src = s.table d src := by
  funext i
  cases src with
  | rom => rfl
  | ram => simp [State.table, State.tram, State.chan_setChan_ne s c d x hne]

theorem State.setCrc_setChan (v : BitVec d.width) : (s.setChan c x).setCrc d v = (s.setCrc d v).setChan c x := by
  rw [State.setCrc, State.chan_setChan_ne s c d x hne, State.setChan_comm s x hne, State.setCrc]

theorem State.setTvalid_setChan (b : Bool) : (s.setChan c x).setTvalid d b = (s.setTvalid d b).setChan c x := by
  rw [State.setTvalid, State.chan_setChan_ne s c d x hne, State.setChan_comm s x hne, State.setTvalid]

theorem State.setTram_setChan (f : Byte → BitVec d.width) :
    (s.setChan c x).setTram d f = (s.setTram d f).setChan c x := by
  rw [State.setTram, State.chan_setChan_ne s c d x hne, State.setChan_comm s x hne, State.setTram]

theorem State.freeCrc_setChan : (s.setChan c x).freeCrc d = (s.freeCrc d).setChan c x := by
  rw [State.freeCrc, State.setChan_free, State.setCrc_setChan s x hne, State.drawn_setChan, State.freeCrc]

theorem State.freeTram_setChan : (s.setChan c x).freeTram d = (s.freeTram d).setChan c x := by
  simp only [State.freeTram, State.setChan_free, State.setTram_setChan s x hne, State.drawn_setChan]

theorem State.foldByte_setChan (src : TSrc) (b : Byte) :
    (s.setChan c x).foldByte d src b = (s.foldByte d src b).setChan c x := by
  rw [State.foldByte, State.crc_setChan_ne s x hne, State.table_setChan_ne s x hne, State.setCrc_setChan s x hne,
    State.foldByte]

theorem State.startSynth_setChan (n : Option FoldState) :
    (s.setChan c x).startSynth d n = (s.startSynth d n).setChan c x := by
  rw [State.startSynth, State.setTvalid_setChan s x hne, State.withSeq_setChan, State.startSynth]

theorem State.synthStep_setChan (n : Option FoldState) :
    (s.setChan c x).synthStep d n = (s.synthStep d n).setChan c x := by
  rw [State.synthStep, State.setTram_setChan s x hne, State.setTvalid_setChan _ x hne, State.withSeq_setChan,
    State.synthStep]

end

section
variable {s : State} {c : Ch} (hsynth : ∀ n, s.seq ≠ .synth c n) (hfold : ∀ f, s.seq = .fold f → f.ch ≠ c)
  (x : Channel c.width)
include hsynth hfold

/-- An abort of a command of another channel neither changes nor reads channel `c` (R177). -/
theorem State.abandon_setChan : (s.setChan c x).abandon = s.abandon.setChan c x := by
  cases hs : s.seq with
  | idle => simp [State.abandon, hs]
  | synth d n =>
    have hne : d ≠ c := fun e => hsynth n (e ▸ hs)
    simp [State.abandon, hs, State.freeTram_setChan _ x hne, State.freeCrc_setChan _ x hne, State.freeCount_setChan]
  | fold f => simp [State.abandon, hs, State.freeCrc_setChan _ x (hfold f hs), State.freeCount_setChan]

theorem State.raise_setChan (e : ErrCode) : (s.setChan c x).raise e = (s.raise e).setChan c x := by
  rw [State.raise, State.abandon_setChan hsynth hfold x]
  cases c <;> rfl

end

theorem State.raise_setChan_of_idle {s : State} (hs : s.seq = .idle) {c : Ch} (x : Channel c.width) (e : ErrCode) :
    (s.setChan c x).raise e = (s.raise e).setChan c x :=
  State.raise_setChan (by simp [hs]) (by simp [hs]) x e

/-- A fold of another channel neither changes nor reads channel `c` (R23). -/
theorem State.foldStep_setChan {s : State} {f : FoldState} (hs : s.seq = .fold f) {c : Ch} (hne : f.ch ≠ c)
    (x : Channel c.width) : (s.setChan c x).foldStep f = (s.foldStep f).setChan c x := by
  have hraise := State.raise_setChan (s := s) (c := c) (by simp [hs]) (by simp [hs, hne]) x .bus
  simp only [State.foldStep, State.setChan_memAdmit, State.setChan_portByte, State.issueRead_setChan]
  split_ifs
  · exact s.withSeq_setChan x .idle
  · exact State.withSeq_setChan _ x .idle
  · rw [State.foldNext, State.foldByte_setChan _ x hne, State.withCountSeq_setChan, State.foldNext]
  · exact hraise

section
variable {s : State} (hs : s.seq = .idle) {c d : Ch} (x : Channel c.width)
include hs

theorem State.startFold_setChan (hne : d ≠ c) (src : TSrc) (mode : FoldMode) :
    (s.setChan c x).startFold d src mode = (s.startFold d src mode).setChan c x := by
  simp only [State.startFold, State.setChan_rangeBad, State.setChan_latchFold, State.setCrc_setChan s x hne,
    State.withCountRaced_setChan]
  split
  · exact State.raise_setChan_of_idle hs x .range
  · cases src with
    | rom => cases c <;> rfl
    | ram => exact State.startSynth_setChan _ x hne _

/-- An accepted command neither changes nor reads a channel it does not address (R23). -/
theorem effect_setChan {i : Instr} (hi : i.channel ≠ some c) :
    effect i (s.setChan c x) = (effect i s).setChan c x := by
  have ne {ch : Ch} (h : some ch ≠ some c) : ch ≠ c := fun e => h (congrArg some e)
  cases i with
  | nop => rfl
  | seed ch => exact s.setCrc_setChan x (ne hi) _
  | synth ch => exact s.startSynth_setChan x (ne hi) _
  | update ch src imm =>
    simp only [effect, State.tvalid_setChan_ne s x (ne hi)]
    split
    · exact State.raise_setChan_of_idle hs x .notable
    · exact s.foldByte_setChan x (ne hi) src imm
  | calcLen ch src => exact State.startFold_setChan hs x (ne hi) src .len
  | calcz ch src => exact State.startFold_setChan hs x (ne hi) src .z

end

/-- Settles O56: acceptance by the commands' effects, the sequencer by its three states. -/
theorem channelsDoNotInteract : Obligations.ChannelsDoNotInteract := by
  refine ⟨fun i s t c x ha hi h => ?_, fun s c x hsynth hfold => ?_⟩
  · obtain rfl : effect i s = t := by simpa [exec_of_accepts i s ha] using h
    have ha' : (s.setChan c x).Accepts := by simpa [State.Accepts, State.busy] using ha
    rw [exec_of_accepts i _ ha', effect_setChan ha.idle x hi]
  · cases hs : s.seq with
    | idle => rw [State.seqStep_of_idle hs, State.seqStep_of_idle (by simpa using hs)]
    | synth d n =>
      have hne : d ≠ c := fun e => hsynth n (e ▸ hs)
      rw [State.seqStep_of_synth hs, State.seqStep_of_synth (by simpa using hs), State.synthStep_setChan s x hne]
    | fold f =>
      rw [State.seqStep_of_fold hs, State.seqStep_of_fold (by simpa using hs),
        State.foldStep_setChan hs (hfold f hs) x]

end Sys2Proof.Machine
end

section
/-! SUPPORT. The data space (20_memory.md): no step of the block writes memory (R60), other agents' writes reach the one byte
they write (R70, R73), the fold's read of a byte whatever it answers, and the range check of CALC and CALCZ (R68). -/

namespace Sys2Proof.Machine

/-! ### The block leaves memory alone -/

theorem State.SameMemory.refl (s : State) : s.SameMemory s := State.sameMemory_of_eq rfl rfl

theorem State.reply_sameMemory (s : State) (v : Option Word) : s.SameMemory (s.reply v) :=
  State.sameMemory_of_eq (by simp) (by simp)

theorem State.raise_sameMemory (s : State) (e : ErrCode) : s.SameMemory (s.raise e) :=
  State.sameMemory_of_eq (by simp) (by simp)

theorem State.applyReset_sameMemory (s : State) : s.SameMemory s.applyReset :=
  State.sameMemory_of_eq (by simp) (by simp)

theorem State.rd_sameMemory (s : State) (off : Offset) (size : AccessSize) : s.SameMemory (s.rd off size) := by
  obtain ⟨v, he⟩ | ⟨-, -, he⟩ := s.rd_cases off size <;> exact State.sameMemory_of_eq (by simp [he]) (by simp [he])

theorem State.pollOnce_sameMemory (s : State) : s.SameMemory s.pollOnce := by
  unfold State.pollOnce
  split <;> exact s.reply_sameMemory (some s.status)

/-- A fold step reads memory and never writes it (R144, R146). -/
theorem State.foldStep_sameMemory (s : State) (f : FoldState) : s.SameMemory (s.foldStep f) := by
  obtain ⟨-, he⟩ | ⟨-, -, he⟩ | ⟨-, -, -, -, he⟩ | ⟨-, -, -, he⟩ := s.foldStep_cases f <;>
    exact State.sameMemory_of_eq (by simp [he, State.foldNext, State.foldByte])
      (by simp [he, State.foldNext, State.foldByte])

theorem State.seqStep_sameMemory (s : State) : s.SameMemory s.seqStep := by
  cases hs : s.seq with
  | idle => rw [State.seqStep_of_idle hs]; exact .refl s
  | synth ch n =>
    rw [State.seqStep_of_synth hs]
    exact State.sameMemory_of_eq (by simp [State.synthStep]) (by simp [State.synthStep])
  | fold f => rw [State.seqStep_of_fold hs]; exact s.foldStep_sameMemory f

theorem State.startFold_sameMemory (s : State) (ch : Ch) (src : TSrc) (mode : FoldMode) :
    s.SameMemory (s.startFold ch src mode) := by
  obtain ⟨-, he⟩ | ⟨-, -, he⟩ | ⟨-, -, he⟩ := s.startFold_cases ch src mode <;>
    exact State.sameMemory_of_eq (by simp [he, State.startSynth]) (by simp [he, State.startSynth])

/-- No command writes memory at acceptance. -/
theorem effect_sameMemory (i : Instr) (s : State) : s.SameMemory (effect i s) := by
  cases i with
  | nop => exact .refl s
  | seed ch => exact State.sameMemory_of_eq (by simp [effect]) (by simp [effect])
  | synth ch => exact State.sameMemory_of_eq (by simp [effect, State.startSynth]) (by simp [effect, State.startSynth])
  | update ch src imm =>
    obtain he | he := effect_update_cases ch src imm s
    · exact he ▸ s.raise_sameMemory .notable
    · exact State.sameMemory_of_eq (by simp [he, State.foldByte]) (by simp [he, State.foldByte])
  | calcLen ch src => exact s.startFold_sameMemory ch src .len
  | calcz ch src => exact s.startFold_sameMemory ch src .z

theorem State.wr_sameMemory {s t : State} {off : Offset} {size : AccessSize} {v : Word}
    (h : s.wr off size v = .next t) : s.SameMemory t := by
  obtain ⟨-, rfl⟩ | ⟨-, -, rfl⟩ | ⟨-, -, rfl⟩ | ⟨ha, r, -, hw⟩ := State.wr_cases h
  · exact .refl _
  · exact s.raise_sameMemory _
  · exact s.raise_sameMemory _
  · obtain ⟨-, -, -, rfl⟩ | ⟨-, i, -, hx⟩ | ⟨-, rfl⟩ | ⟨-, rfl⟩ | ⟨-, -, -, rfl⟩ := State.writeReg_cases hw
    · exact s.raise_sameMemory _
    · obtain rfl : effect i s = t := by simpa [exec_of_accepts i s ha] using hx
      exact effect_sameMemory i s
    · exact State.sameMemory_of_eq rfl rfl
    · exact State.sameMemory_of_eq rfl rfl
    · exact s.raise_sameMemory _

/-- Another agent's write is the one event that writes memory (R60, R73). -/
theorem State.handle_sameMemory {s t : State} {e : Event} (he : ∀ a b, e ≠ .memWrite a b)
    (h : s.handle e = .next t) : s.SameMemory t := by
  cases e with
  | rd off size => cases h; exact s.rd_sameMemory off size
  | wr off size v => exact State.wr_sameMemory h
  | poll => cases h; exact s.pollOnce_sameMemory
  | tick => cases h; exact s.seqStep_sameMemory
  | reset => cases h; exact s.applyReset_sameMemory
  | memWrite a b => exact absurd rfl (he a b)

/-! ### A step that takes an event, and another agent's write -/

theorem step_of_inputs {s : State} {e : Event} {rest : List Event} (h : s.inputs = e :: rest) :
    step s = State.handle { s with inputs := rest } e := by
  simp [step, h]

/-- What another agent's write does to the machine besides memory: nothing but the note of a race (R70). -/
theorem State.memWrite_frame (s : State) (a : Addr) (b : Byte) (rest : List Event) :
    let t := State.memWrite { s with inputs := rest } a b
    s.SameChannels t ∧ s.SameControl t ∧ s.SameAddrLen t ∧ t.count = s.count ∧ s.NoRead t := by
  obtain ⟨hchan, haddr, hlen, hcount, hfault, herr, hseq⟩ :=
    (s.sameBlock_inputs rest).trans (State.sameBlock_memWrite _ a b)
  exact ⟨hchan, ⟨hfault, herr, hseq⟩, ⟨haddr, hlen⟩, hcount, rfl⟩

theorem State.mem_raced_memWrite {s : State} (a : Addr) (b : Byte) (h : s.busy = true) :
    a ∈ (s.memWrite a b).raced := by
  simp [State.memWrite, h]

/-- Settles O55: the sequencer and every event but another agent's write leave memory, and that write is a store of one
byte which the block does not see. -/
theorem blockNeverWritesMemory : Obligations.BlockNeverWritesMemory := by
  intro s t hstep
  obtain ⟨hin, rfl⟩ | ⟨e, rest, hin, he⟩ := step_cases hstep
  · exact ⟨fun _ => s.seqStep_sameMemory, fun a b h => by simp [hin] at h⟩
  · simp only [hin, List.head?_cons, ne_eq, Option.some.injEq]
    refine ⟨fun hne => (State.handle_sameMemory hne he :), ?_⟩
    rintro a b rfl
    obtain rfl : State.memWrite { s with inputs := rest } a b = t := by simpa [State.handle] using he
    exact ⟨State.memByte_memWrite_same _ a b, fun x hx => State.memByte_memWrite_ne _ a x b hx,
      s.memWrite_frame a b rest⟩

/-! ### The fold's read of one byte -/

theorem State.table_of_chan_eq {s t : State} {ch : Ch} (h : t.chan ch = s.chan ch) (src : TSrc) :
    t.table ch src = s.table ch src := by
  funext i
  cases src with
  | rom => rfl
  | ram => simp [State.table, State.tram, h]

/-- The read of a byte written under the running command is a free draw (R70). -/
theorem State.portByte_of_raced {s : State} {a : Addr} (h : a ∈ s.raced) : s.portByte a = (s.free 0).setWidth 8 :=
  if_pos h

/-- A fold changes no table entry and no TVALID of its channel, an abort of it included. -/
theorem State.foldStep_sameTable {s : State} {f : FoldState} (hs : s.seq = .fold f) :
    s.SameTable (s.foldStep f) f.ch := by
  refine ⟨s.foldStep_tvalid f f.ch, fun i => ?_⟩
  obtain ⟨-, he⟩ | ⟨-, -, he⟩ | ⟨-, -, -, -, he⟩ | ⟨-, -, -, he⟩ := s.foldStep_cases f
  · simp [he]
  · exact he ▸ (s.raise_of_fold .bus f hs).2.2 i
  · simp [he]
  · simp [he, State.foldNext, State.foldByte]

section
variable {s : State} {f : FoldState} (hk : f.k ≠ f.len) (hm : s.memAdmit f.address = true)
include hk hm

/-- A fold step before the bound at an admitted address reads one byte, and ends at it or folds it (R144, R146). -/
theorem State.foldStep_of_admitted : s.foldStep f =
    if f.mode = .z ∧ s.portByte f.address = 0 then { s.issueRead f.address with seq := .idle }
    else (s.issueRead f.address).foldNext f (s.portByte f.address) := by
  rw [State.foldStep, if_neg hk, if_pos hm]

/-- What that step does whatever the byte is: one read, a draw where the byte is raced, and no error. -/
theorem State.foldStep_read_frame :
    (s.foldStep f).portReads = s.portReads ++ [f.address] ∧
    (s.foldStep f).draws = s.draws + (if f.address ∈ s.raced then 1 else 0) ∧
    (s.foldStep f).fault = s.fault ∧ (s.foldStep f).err = s.err ∧ (s.foldStep f).inputs = s.inputs ∧
    (s.foldStep f).reads = s.reads := by
  rw [State.foldStep_of_admitted hk hm]
  split
  · simp
  · simp [State.foldNext, State.foldByte]

/-- CALCZ ends at a 0x00 byte, which it neither folds nor counts (R146). -/
theorem State.foldStep_of_terminator (hz : f.mode = .z ∧ s.portByte f.address = 0) :
    (s.foldStep f).seq = .idle ∧ (s.foldStep f).crc f.ch = s.crc f.ch ∧ (s.foldStep f).count = s.count := by
  rw [State.foldStep_of_admitted hk hm, if_pos hz]
  simp

/-- Every other byte is folded and counted (R144, R146). -/
theorem State.foldStep_of_not_terminator (hz : ¬(f.mode = .z ∧ s.portByte f.address = 0)) :
    (s.foldStep f).crc f.ch = f.ch.update (s.crc f.ch) (s.table f.ch f.src) (s.portByte f.address) ∧
    (s.foldStep f).count = f.k + 1 ∧ (s.foldStep f).seq = .fold { f with k := f.k + 1 } := by
  rw [State.foldStep_of_admitted hk hm, if_neg hz]
  simp [State.foldNext, State.foldByte, State.table_of_chan_eq (s.issueRead_chan f.address f.ch)]

end

/-- Settles O26: the write by the store and its note, the read by the fold step at the free byte. -/
theorem racedReadFoldsSomeByte : Obligations.RacedReadFoldsSomeByte := by
  refine ⟨fun s a x rest hbusy hin => ?_, fun t f rest hseq hk hm hr hin => ?_⟩
  · exact ⟨_, step_of_inputs hin, State.memByte_memWrite_same _ a x, State.mem_raced_memWrite a x hbusy, rfl, rfl,
      s.memWrite_frame a x rest⟩
  · let v : State := { t with inputs := rest }
    have hb : t.SameBlock v := t.sameBlock_inputs rest
    have hseq : v.seq = .fold f := hseq
    have hm : v.memAdmit f.address = true := hm
    have hr : f.address ∈ v.raced := hr
    have hbyte : v.portByte f.address = (t.free 0).setWidth 8 := State.portByte_of_raced hr
    have hstep : step t = .next (v.foldStep f) := by rw [step_of_inputs hin, ← State.seqStep_of_fold hseq]; rfl
    obtain ⟨hport, hdraws, hfault, herr, hinputs, hreads⟩ := State.foldStep_read_frame hk hm
    obtain ⟨htvalid, htram⟩ := State.foldStep_sameTable hseq
    rw [if_pos hr] at hdraws
    refine ⟨hbyte, _, hstep, hport, hdraws, fun hz => ?_, fun hz => ?_, hfault, herr, hinputs, hreads,
      ⟨htvalid.trans (hb.tvalid f.ch), fun i => (htram i).trans (t.tram_mk ..)⟩,
      fun c hc => (State.foldStep_chan_ne hseq hc).trans (hb.channels c), (v.foldStep_frame f).2,
      v.foldStep_sameMemory f⟩
    · obtain ⟨hidle, hcrc, hcount⟩ := State.foldStep_of_terminator hk hm (hbyte ▸ hz)
      exact ⟨hidle, hcrc.trans (hb.crc f.ch), hcount⟩
    · obtain ⟨hcrc, hcount, hnext⟩ := State.foldStep_of_not_terminator hk hm (hbyte ▸ hz)
      exact ⟨by rw [hcrc, hb.crc, State.table_of_chan_eq (hb.channels f.ch), hbyte], hcount, hnext⟩

/-! ### The range check of CALC and CALCZ -/

theorem State.startFold_of_wraps {s : State} (hs : s.seq = .idle) (hlen : s.len ≠ 0)
    (hwrap : 2 ^ 64 < s.addr.toNat + s.len.toNat) (ch : Ch) (src : TSrc) (mode : FoldMode) :
    s.startFold ch src mode = { s with fault := true, err := .range } := by
  have hbad : s.rangeBad = true := by
    rw [← Bool.not_eq_false, State.rangeBad_eq_false_iff]
    rintro (h | h)
    · exact hlen h
    · exact Nat.not_lt.2 h hwrap
  rw [State.startFold, if_pos hbad, State.raise_of_idle s .range hs]

/-- Settles O20: both commands start a fold, which the range check stops. -/
theorem wrappingRangeRaisesRange : Obligations.WrappingRangeRaisesRange := by
  intro ch src s ha hlen hwrap
  rw [exec_of_accepts _ s ha, exec_of_accepts _ s ha]
  exact ⟨congrArg _ (State.startFold_of_wraps ha.idle hlen hwrap ch src .len),
    congrArg _ (State.startFold_of_wraps ha.idle hlen hwrap ch src .z)⟩

end Sys2Proof.Machine
end

section
/-! SUPPORT. What a CMD write value means (30_encoding.md): when it is legal (R87), the rows of R86 read field by field, and
the decoder on the word of a command. -/

namespace Sys2Proof

/-! ### Legality -/

/-- OP is one of the six defined values or one of 0x6 to 0xF (R85, R87). -/
theorem op_cases (op : BitVec 4) : op = 0 ∨ op = 1 ∨ op = 2 ∨ op = 3 ∨ op = 4 ∨ op = 5 ∨ 6 ≤ op.toNat := by
  revert op; decide

theorem op_ne_of_reserved {op : BitVec 4} (h : 6 ≤ op.toNat) (n : BitVec 4) (hn : n.toNat < 6) : op ≠ n := by
  rintro rfl; exact Nat.not_lt.2 h hn

/-- The low fields carry a command exactly when none of the last four items of R87 applies to them. -/
theorem exists_decodeFields_ok_iff (f : Fields) : (∃ i, decodeFields f = .ok i) ↔
    (f.opDefined && f.tsrcAllowed && f.immAllowed && f.chAllowed) = true := by
  obtain ⟨op, ch, tsrc, bit7, imm8, rsv, high⟩ := f
  obtain rfl | rfl | rfl | rfl | rfl | rfl | h := op_cases op
  case inr.inr.inr.inr.inr.inr =>
    simp [decodeFields, Fields.opDefined, op_ne_of_reserved h, Nat.not_lt.2 h]
  all_goals
    simp only [decodeFields, Fields.opDefined, Fields.tsrcAllowed, Fields.immAllowed, Fields.chAllowed]
    split_ifs <;> simp_all

/-- The decoder accepts the legal values (R87). -/
theorem exists_decode_ok_iff (v : Word) : (∃ i, decode v = .ok i) ↔ illegal v = false := by
  have h := exists_decodeFields_ok_iff (fieldsOf v)
  simp only [decode, illegal, Fields.wf, Fields.highZero, Fields.bit7Zero, Fields.rsvZero]
  split_ifs <;> simp_all

theorem exists_decode_error_iff (v : Word) : (∃ e, decode v = .error e) ↔ illegal v = true := by
  have h := exists_decode_ok_iff v
  cases hd : decode v <;> simp_all

/-- The items of R87, on the fields. -/
theorem Fields.not_wf_iff (f : Fields) : (!f.wf) = true ↔
    (f.high ≠ 0 ∨ f.bit7 ≠ 0 ∨ f.rsv ≠ 0 ∨ 6 ≤ f.op.toNat ∨ (f.op ∈ [0x0#4, 0x1#4, 0x2#4] ∧ f.tsrc ≠ 0)
      ∨ (f.op ∈ [0x0#4, 0x1#4, 0x2#4, 0x4#4, 0x5#4] ∧ f.imm8 ≠ 0) ∨ (f.op = 0x0#4 ∧ f.ch ≠ 0)) := by
  simp [Fields.wf, Fields.highZero, Fields.bit7Zero, Fields.rsvZero, Fields.opDefined, Fields.tsrcAllowed,
    Fields.immAllowed, Fields.chAllowed, or_assoc]

/-! ### The rows of R86 -/

/-- The low half of a value is its six low fields, one after another (R81). -/
theorem low_eq_append (c : BitVec 32) : c = c.extractLsb' 16 16 ++ (c.extractLsb' 8 8 ++ (c.extractLsb' 7 1 ++
    (c.extractLsb' 6 1 ++ (c.extractLsb' 4 2 ++ c.extractLsb' 0 4)))) := by
  rw [BitVec.extractLsb'_append_extractLsb'_eq_extractLsb' (start₂ := 4) rfl,
    BitVec.extractLsb'_append_extractLsb'_eq_extractLsb' (start₂ := 6) rfl,
    BitVec.extractLsb'_append_extractLsb'_eq_extractLsb' (start₂ := 7) rfl,
    BitVec.extractLsb'_append_extractLsb'_eq_extractLsb' (start₂ := 8) rfl,
    BitVec.extractLsb'_append_extractLsb'_eq_extractLsb' (start₂ := 16) rfl]
  exact BitVec.extractLsb'_eq_self.symm

theorem low_eq_iff (c d : BitVec 32) : c = d ↔
    c.extractLsb' 16 16 = d.extractLsb' 16 16 ∧ c.extractLsb' 8 8 = d.extractLsb' 8 8 ∧
    c.extractLsb' 7 1 = d.extractLsb' 7 1 ∧ c.extractLsb' 6 1 = d.extractLsb' 6 1 ∧
    c.extractLsb' 4 2 = d.extractLsb' 4 2 ∧ c.extractLsb' 0 4 = d.extractLsb' 0 4 := by
  refine ⟨by rintro rfl; simp, fun ⟨h16, h8, h7, h6, h4, h0⟩ => ?_⟩
  rw [low_eq_append c, h16, h8, h7, h6, h4, h0, ← low_eq_append d]

/-- A row of R86 selects a value field by field. -/
theorem OpcodeRow.selects_iff (r : OpcodeRow) (v : Word) : r.selects (v.extractLsb' 0 32) = true ↔
    (fieldsOf v).rsv &&& r.mask.extractLsb' 16 16 = r.pattern.extractLsb' 16 16 ∧
    (fieldsOf v).imm8 &&& r.mask.extractLsb' 8 8 = r.pattern.extractLsb' 8 8 ∧
    (fieldsOf v).bit7 &&& r.mask.extractLsb' 7 1 = r.pattern.extractLsb' 7 1 ∧
    (fieldsOf v).tsrc &&& r.mask.extractLsb' 6 1 = r.pattern.extractLsb' 6 1 ∧
    (fieldsOf v).ch &&& r.mask.extractLsb' 4 2 = r.pattern.extractLsb' 4 2 ∧
    (fieldsOf v).op &&& r.mask.extractLsb' 0 4 = r.pattern.extractLsb' 0 4 := by
  rw [OpcodeRow.selects, beq_iff_eq, low_eq_iff]
  simp [BitVec.extractLsb'_and, BitVec.extractLsb'_extractLsb'_of_le, fieldsOf]

/-- A mask of ones keeps the whole field. -/
theorem and_eq_self_of_eq_allOnes {w : Nat} {m : BitVec w} (h : m = BitVec.allOnes w) (x : BitVec w) :
    x &&& m = x := by
  rw [h, BitVec.and_allOnes]

/-- Some row of R86 selects a value exactly when the value's low half is legal: OP by OP, the row of that OP asks for the
zero fields that R87 asks for. -/
theorem exists_row_selects_iff (v : Word) : (∃ r ∈ opcodeRows, r.selects (v.extractLsb' 0 32) = true) ↔
    ((fieldsOf v).bit7Zero && (fieldsOf v).rsvZero && (fieldsOf v).opDefined && (fieldsOf v).tsrcAllowed &&
      (fieldsOf v).immAllowed && (fieldsOf v).chAllowed) = true := by
  simp only [opcodeRows, List.exists_mem_cons_iff, OpcodeRow.selects_iff, List.not_mem_nil, false_and,
    exists_false, or_false]
  generalize fieldsOf v = f
  obtain ⟨op, ch, tsrc, bit7, imm8, rsv, high⟩ := f
  obtain rfl | rfl | rfl | rfl | rfl | rfl | h := op_cases op
  case inr.inr.inr.inr.inr.inr =>
    simp (disch := decide) [and_eq_self_of_eq_allOnes, Fields.opDefined, op_ne_of_reserved h, Nat.not_lt.2 h]
  all_goals
    simp (disch := decide) [and_eq_self_of_eq_allOnes, Fields.bit7Zero, Fields.rsvZero, Fields.opDefined,
      Fields.tsrcAllowed, Fields.immAllowed, Fields.chAllowed]
    tauto

/-- A value is legal exactly when its high half is 0 and its low half matches a row of R86 (R87). -/
theorem legal_iff_exists_row (v : Word) : illegal v = false ↔
    v.extractLsb' 32 32 = 0 ∧ ∃ r ∈ opcodeRows, r.selects (v.extractLsb' 0 32) = true := by
  rw [exists_row_selects_iff]
  simp [illegal, Fields.wf, Fields.highZero, fieldsOf, and_assoc]

/-! ### The word of a command -/

@[simp] theorem Ch.ofIndex_index (ch : Ch) : Ch.ofIndex ch.index = ch := by cases ch <;> rfl
@[simp] theorem TSrc.ofBit_bit (src : TSrc) : TSrc.ofBit src.bit = src := by cases src <;> rfl

/-- The fields of a command select that command (R85). -/
theorem decodeFields_fields (i : Instr) : decodeFields i.fields = .ok i := by
  cases i <;> simp [decodeFields, Instr.fields, Instr.op]

/-- The word of an UPDATE is the sum of its fields at their places (R86). -/
theorem encode_update_toNat (ch : Ch) (src : TSrc) (imm : Byte) :
    (encode (.update ch src imm)).toNat = 3 + 16 * ch.index.toNat + 64 * src.bit.toNat + 256 * imm.toNat := by
  have himm := imm.isLt
  cases ch <;> cases src <;> simp [encode, Ch.index, TSrc.bit, Nat.shiftLeft_eq] <;> omega

/-- The word of a command has the fields of the command (R81, R86). -/
theorem fieldsOf_encode (i : Instr) : fieldsOf (encode i) = i.fields := by
  cases i with
  | nop => rfl
  | seed ch => cases ch <;> rfl
  | synth ch => cases ch <;> rfl
  | calcLen ch src => cases ch <;> cases src <;> rfl
  | calcz ch src => cases ch <;> cases src <;> rfl
  | update ch src imm =>
    have hword := encode_update_toNat ch src imm
    have himm := imm.isLt
    have hch := ch.index.isLt
    have hsrc := src.bit.isLt
    simp only [fieldsOf, Instr.fields, Instr.op, Fields.mk.injEq, ← BitVec.toNat_inj, BitVec.extractLsb'_toNat,
      Nat.shiftRight_eq_div_pow]
    refine ⟨?_, ?_, ?_, ?_, ?_, ?_, ?_⟩ <;> simp <;> omega

/-- The word of a command decodes to the command (R86). -/
theorem decode_encode (i : Instr) : decode (encode i) = .ok i := by
  obtain ⟨hhigh, hbit7, hrsv⟩ : i.fields.high = 0 ∧ i.fields.bit7 = 0 ∧ i.fields.rsv = 0 := by
    cases i <;> exact ⟨rfl, rfl, rfl⟩
  simp [decode, fieldsOf_encode, hhigh, hbit7, hrsv, decodeFields_fields]

end Sys2Proof

namespace Sys2Proof.Machine

/-! ### Accepting an illegal value -/

/-- An accepted illegal value raises ILLEGAL, which on an idle block changes nothing else (R87, R177). -/
theorem State.accept_of_error {s : State} (ha : s.Accepts) {v : Word} {e : Illegal} (h : decode v = .error e) :
    s.accept v = .next { s with fault := true, err := .illegal } := by
  simp only [State.accept, h, State.raise_of_idle s .illegal ha.idle]

/-- Settles O3: both characterisations go through the legality of the fields. -/
theorem illegalValuesAreThoseOfR87 : Obligations.IllegalValuesAreThoseOfR87 := fun v =>
  ⟨(exists_decode_error_iff v).trans (fieldsOf v).not_wf_iff,
    (exists_decode_ok_iff v).trans (legal_iff_exists_row v),
    fun _ ha ⟨_, he⟩ => State.accept_of_error ha he⟩

end Sys2Proof.Machine
end

section
/-! SUPPORT. Runs of the machine and the end of a poll (30_encoding.md R91, 70_reset_and_hazards.md R206, R207): the bytes a
fold has still to read, how many turns the sequencer still takes, and the rule of the poll: it ends Idle, and what the
sequencer keeps, it keeps. -/

namespace Sys2Proof.Machine

/-! ### Runs -/

/-- Some number of steps leads from `s` to `u`. -/
def State.Reaches (s u : State) : Prop := ∃ n, run n s = .next u

theorem State.Reaches.refl (s : State) : s.Reaches s := ⟨0, rfl⟩

theorem State.Reaches.head {s t u : State} (h : step s = .next t) (hr : t.Reaches u) : s.Reaches u := by
  obtain ⟨n, hn⟩ := hr
  exact ⟨n + 1, by rw [run, h]; exact hn⟩

theorem State.Reaches.single {s t : State} (h : step s = .next t) : s.Reaches t := .head h (.refl t)

theorem State.Reaches.trans {s t u : State} (h : s.Reaches t) (h' : t.Reaches u) : s.Reaches u := by
  obtain ⟨n, hn⟩ := h
  induction n generalizing s with
  | zero => cases hn; exact h'
  | succ n ih =>
    rw [run] at hn
    cases hs : step s <;> rw [hs] at hn
    case next v => exact .head hs (ih hn)
    all_goals cases hn

/-! ### What a running command has still to do -/

/-- The fold that runs, or that follows the synthesis that runs (R40). -/
def Seq.latched : Seq → Option FoldState
  | .idle => none
  | .synth _ next => next
  | .fold f => some f

/-- The addresses a fold has still to read, up to its bound (R144). -/
def FoldState.pendingAddrs (f : FoldState) : List Addr :=
  (List.range (f.len - f.k).toNat).map fun j => f.base + f.k + BitVec.ofNat 64 j

theorem FoldState.pendingAddrs_of_done {f : FoldState} (h : f.k = f.len) : f.pendingAddrs = [] := by
  simp [FoldState.pendingAddrs, h]

/-- Before the bound, a fold reads its next byte and then what the fold after that step has still to read. -/
theorem FoldState.pendingAddrs_of_ne {f : FoldState} (h : f.k ≠ f.len) :
    f.pendingAddrs = f.address :: ({ f with k := f.k + 1 } : FoldState).pendingAddrs := by
  have hlen : (f.len - f.k).toNat = (f.len - (f.k + 1)).toNat + 1 := by
    bv_omega
  simp only [FoldState.pendingAddrs, hlen, List.range_succ_eq_map, List.map_cons, List.map_map, FoldState.address]
  congr 1
  · simp
  · refine List.map_congr_left fun j _ => ?_
    simp only [Function.comp]
    bv_omega

/-- How many turns the sequencer takes before it is Idle, at most (R206). -/
def Seq.turns : Seq → Nat
  | .idle => 0
  | .synth _ none => 1
  | .synth _ (some f) => f.pendingAddrs.length + 2
  | .fold f => f.pendingAddrs.length + 1

/-- The sequencer after a fold step: Idle, or the fold at the next byte. -/
theorem State.foldStep_seq (s : State) (f : FoldState) :
    (s.foldStep f).seq = .idle ∨ (f.k ≠ f.len ∧ (s.foldStep f).seq = .fold { f with k := f.k + 1 }) := by
  obtain ⟨-, he⟩ | ⟨-, -, he⟩ | ⟨-, -, -, -, he⟩ | ⟨hk, -, -, he⟩ := s.foldStep_cases f
  · exact .inl (by rw [he])
  · exact .inl (by rw [he]; rfl)
  · exact .inl (by rw [he])
  · exact .inr ⟨hk, by rw [he]; rfl⟩

/-- A turn of a sequencer that is not Idle leaves it fewer turns (R206). -/
theorem State.seqStep_turns {s : State} (h : s.seq ≠ .idle) : s.seqStep.seq.turns < s.seq.turns := by
  cases hs : s.seq with
  | idle => exact absurd hs h
  | synth ch n => 
    rw [State.seqStep_of_synth hs]
    cases n <;> simp [State.synthStep, seqAfterSynth, Seq.turns]
  | fold f => 
    rw [State.seqStep_of_fold hs]
    obtain hi | ⟨hk, hf⟩ := s.foldStep_seq f
    · simp [hi, Seq.turns]
    · simp [hf, Seq.turns, FoldState.pendingAddrs_of_ne hk]

@[simp] theorem State.seqStep_inputs (s : State) : s.seqStep.inputs = s.inputs := by
  cases hs : s.seq with
  | idle => rw [State.seqStep_of_idle hs]
  | synth ch n => rw [State.seqStep_of_synth hs]; simp [State.synthStep]
  | fold f =>
    rw [State.seqStep_of_fold hs]
    obtain ⟨-, he⟩ | ⟨-, -, he⟩ | ⟨-, -, -, -, he⟩ | ⟨-, -, -, he⟩ := s.foldStep_cases f <;>
      simp [he, State.foldNext, State.foldByte]

/-! ### The rule of the poll -/

theorem State.status_bit0 (s : State) : s.status.getLsbD 0 = s.busy := s.status_getLsbD 0

/-- Nothing in STATUS depends on the host's side. -/
@[simp] theorem State.status_host (s : State) (is : List Event) (rs : List Word) :
    ({ s with inputs := is, reads := rs } : State).status = s.status := by
  simp [State.status, State.tvalidBits, State.busy]

/-- The read of a poll and, where BUSY reads 1, the turn of the sequencer and the rest of the poll put in front (R91). -/
theorem step_poll {s : State} {rest : List Event} (hin : s.inputs = .poll :: rest) :
    step s = .next { s with
      inputs := if s.busy then .tick :: .poll :: rest else rest, reads := s.reads ++ [s.status] } := by
  have hst : ({ s with inputs := rest } : State).status = s.status := s.status_host rest s.reads
  rw [step_of_inputs hin, State.handle, State.pollOnce, hst, State.status_bit0]
  cases s.busy <;> rfl

/-- A poll that reads BUSY as 1 goes on after a turn of the sequencer. -/
theorem reaches_seqStep_of_poll {s : State} {rest : List Event} (hin : s.inputs = .poll :: rest) (hb : s.busy = true) :
    s.Reaches (State.seqStep { s with inputs := .poll :: rest, reads := s.reads ++ [s.status] }) := by
  have hread := step_poll hin
  rw [if_pos hb] at hread
  exact .head hread (.single rfl)

/-- `P` does not speak of the host's side, and every turn of the sequencer keeps it: so every step of a poll keeps it. -/
structure KeptByPoll (P : State → Prop) : Prop where
  host : ∀ s is rs, P s → P { s with inputs := is, reads := rs }
  sequencer : ∀ s, P s → P s.seqStep

/-- The rule of the poll (R91, R207): it ends, by induction on the turns that are left, with the sequencer Idle and the last
value read being STATUS as it then is; and it keeps what each of its steps keeps. -/
theorem reaches_end_of_poll {s : State} {rest : List Event} (hin : s.inputs = .poll :: rest) :
    ∃ u, s.Reaches u ∧ u.seq = .idle ∧ u.inputs = rest ∧ u.reads.getLast? = some u.status ∧
      ∀ P, KeptByPoll P → P s → P u := by
  induction hn : s.seq.turns using Nat.strong_induction_on generalizing s with
  | h n ih =>
    cases hb : s.busy with
    | false =>
      have hread := step_poll hin
      rw [hb, if_neg Bool.false_ne_true] at hread
      exact ⟨_, .single hread, s.busy_eq_false_iff.1 hb, rfl, by simp, fun P hP hp => hP.host _ _ _ hp⟩
    | true =>
      let t : State := { s with inputs := .poll :: rest, reads := s.reads ++ [s.status] }
      have hturns : t.seqStep.seq.turns < n := hn ▸ State.seqStep_turns (s := t) (s.busy_eq_true_iff.1 hb)
      obtain ⟨u, hreach, hidle, hrest, hlast, hkept⟩ := ih _ hturns t.seqStep_inputs rfl
      exact ⟨u, (reaches_seqStep_of_poll hin hb).trans hreach, hidle, hrest, hlast,
        fun P hP hp => hkept P hP (hP.sequencer t (hP.host _ _ _ hp))⟩

/-! ### A run that meets no refused byte -/

/-- The platform admits every byte the running command has still to read (R61). -/
def State.AdmitsPending (s : State) : Prop :=
  ∀ f, s.seq.latched = some f → ∀ a ∈ f.pendingAddrs, s.memAdmit a = true

/-- Under the invariant the bytes that a running command may still read are those its fold has still to read: its index lies
in its range (R40). -/
theorem State.admitsPending_of_admitsRest {s : State} (hinv : s.Inv) (h : s.AdmitsRest) : s.AdmitsPending := by
  intro f hf a ha
  have hrun : s.seq = .fold f ∨ ∃ ch, s.seq = .synth ch (some f) := by
    cases hs : s.seq <;> simp_all [Seq.latched]
  have hk : f.k.toNat ≤ f.len.toNat := by
    have hq := hinv.sequencer
    obtain hs | ⟨ch, hs⟩ := hrun <;> simp only [State.SeqConsistent, hs] at hq
    · exact hq.2.1.1
    · exact hq.2.2.2.2.1.1
  obtain ⟨j, hj, rfl⟩ := List.mem_map.1 ha
  rw [List.mem_range, BitVec.toNat_sub_of_le hk] at hj
  have := h f hrun (f.k.toNat + j) (Nat.le_add_right _ _) (by omega)
  rwa [BitVec.ofNat_add, BitVec.ofNat_toNat, BitVec.setWidth_eq, ← BitVec.add_assoc] at this

/-- A turn of the sequencer latches no new fold, and a fold that runs on has no new byte to read. -/
theorem State.seqStep_latched {s : State} {f' : FoldState} (h : s.seqStep.seq.latched = some f') :
    ∃ f, s.seq.latched = some f ∧ f'.pendingAddrs ⊆ f.pendingAddrs := by
  cases hs : s.seq with
  | idle => simp [State.seqStep_of_idle hs, hs, Seq.latched] at h
  | synth ch n =>
    rw [State.seqStep_of_synth hs] at h
    cases n with
    | none => simp [State.synthStep, seqAfterSynth, Seq.latched] at h
    | some f => exact ⟨f, rfl, by cases h; exact List.Subset.refl _⟩
  | fold f =>
    rw [State.seqStep_of_fold hs] at h
    obtain hi | ⟨hk, hf⟩ := s.foldStep_seq f
    · simp [hi, Seq.latched] at h
    · rw [hf] at h
      cases h
      exact ⟨f, rfl, FoldState.pendingAddrs_of_ne hk ▸ List.subset_cons_self ..⟩

theorem State.seqStep_admitsPending {s : State} (h : s.AdmitsPending) : s.seqStep.AdmitsPending := by
  intro f' hf' a ha
  obtain ⟨f, hf, hsub⟩ := State.seqStep_latched hf'
  exact (s.seqStep_sameMemory.2.2 a).2.trans (h f hf a (hsub ha))

theorem State.AdmitsPending.next {s : State} {f : FoldState} (h : s.AdmitsPending) (hs : s.seq = .fold f)
    (hk : f.k ≠ f.len) : s.memAdmit f.address = true :=
  h f (by rw [hs]; rfl) _ (by rw [FoldState.pendingAddrs_of_ne hk]; exact List.mem_cons_self)

/-- The sequencer raises no error but BUS, at a byte the platform refuses (R179). -/
theorem State.seqStep_fault {s : State} (h : s.AdmitsPending) : s.seqStep.fault = s.fault := by
  cases hs : s.seq with
  | idle => rw [State.seqStep_of_idle hs]
  | synth ch n => rw [State.seqStep_of_synth hs]; simp [State.synthStep]
  | fold f =>
    rw [State.seqStep_of_fold hs]
    by_cases hk : f.k = f.len
    · simp [State.foldStep, hk]
    · obtain ⟨-, -, hfault, -⟩ := State.foldStep_read_frame hk (h.next hs hk)
      exact hfault

/-- The block is not in FAULT, and its running command meets no refused byte. -/
def State.RunsClean (s : State) : Prop := s.fault = false ∧ s.AdmitsPending

theorem keptByPoll_runsClean : KeptByPoll State.RunsClean where
  host _ _ _ h := h
  sequencer _ h := ⟨(State.seqStep_fault h.2).trans h.1, State.seqStep_admitsPending h.2⟩

/-- Settles O57, by the rule of the poll. -/
theorem pollEnds : Obligations.PollEnds := by
  intro s hinv hin
  obtain ⟨u, ⟨n, hn⟩, hidle, hrest, hlast, hkept⟩ := reaches_end_of_poll hin
  have hended : u.Ended := ⟨by simp [hrest], hidle⟩
  refine ⟨n, u, u.status, hn, hended, hlast, u.status_bit0.trans (u.busy_eq_false_iff.2 hidle), rfl, fun hf ha => ?_⟩
  exact ⟨hended, (hkept _ keptByPoll_runsClean ⟨hf, State.admitsPending_of_admitsRest hinv ha⟩).1⟩

end Sys2Proof.Machine
end

section
/-! SUPPORT. What a whole buffer command and a whole host program compute (42_calculate.md R144, R146; 30_encoding.md R91):
the value that CRC[ch] is on the way to, which no turn of the sequencer changes, and the programs of the entry points. -/

namespace Sys2Proof.Machine

/-! ### What a running command computes -/

/-- The bytes a fold takes of those it may read: all of them for CALC, those before the first 0x00 for CALCZ (R144, R146). -/
def FoldMode.taken : FoldMode → List Byte → List Byte
  | .len, bs => bs
  | .z, bs => beforeZero bs

@[simp] theorem FoldMode.taken_nil (m : FoldMode) : m.taken [] = [] := by cases m <;> rfl

theorem FoldMode.taken_of_terminator {m : FoldMode} {b : Byte} (bs : List Byte) (h : m = .z ∧ b = 0) :
    m.taken (b :: bs) = [] := by
  obtain ⟨rfl, rfl⟩ := h; rfl

theorem FoldMode.taken_of_not_terminator {m : FoldMode} {b : Byte} (bs : List Byte) (h : ¬(m = .z ∧ b = 0)) :
    m.taken (b :: bs) = b :: m.taken bs := by
  cases m with
  | len => rfl
  | z => exact if_neg fun hb => h ⟨rfl, hb⟩

/-- What a fold leaves in its CRC when it ends: the register with the bytes it takes of the pending ones folded in (R144,
R146). -/
def State.foldResult (s : State) (f : FoldState) (ch : Ch) : BitVec ch.width :=
  ch.foldBytes (s.crc ch) (f.mode.taken (f.pendingAddrs.map s.memByte))

/-- What CRC[ch] holds once the sequencer is Idle, where its command is one of channel `ch`. -/
def State.result (s : State) (ch : Ch) : BitVec ch.width :=
  match s.seq.latched with
  | none => s.crc ch
  | some f => s.foldResult f ch

/-- The command that runs, if one does, is one of channel `ch`, and the fold reads the synthesized entries, from either table
(R104, R106). -/
def State.FoldsOn (s : State) (ch : Ch) : Prop :=
  match s.seq with
  | .idle => True
  | .synth c next => c = ch ∧ ∀ f ∈ next, f.ch = ch
  | .fold f => f.ch = ch ∧ s.table ch f.src = ch.synthEntry

/-- The machine is on the way to `r` in CRC[ch]: no byte it has still to read is refused or has been written by another agent
(R61, R70), and what it does to channel `ch` ends in `r`. -/
structure State.Computes (ch : Ch) (r : BitVec ch.width) (s : State) : Prop where
  clean : s.RunsClean
  raced : s.raced = []
  channel : s.FoldsOn ch
  result : s.result ch = r

theorem State.portByte_of_no_race {s : State} (h : s.raced = []) (a : Addr) : s.portByte a = s.memByte a := by
  simp [State.portByte, h]

theorem State.table_of_sameTable {s t : State} {ch : Ch} (h : s.SameTable t ch) (src : TSrc) :
    t.table ch src = s.table ch src := by
  cases src with
  | rom => rfl
  | ram => exact funext h.2

theorem State.memByte_of_sameMemory {s t : State} (h : s.SameMemory t) : t.memByte = s.memByte :=
  funext fun a => (h.2.2 a).1

theorem State.result_of_idle {s : State} (h : s.seq = .idle) (ch : Ch) : s.result ch = s.crc ch := by
  rw [State.result, h]; rfl

theorem State.result_of_latched {s : State} {f : FoldState} (h : s.seq.latched = some f) (ch : Ch) :
    s.result ch = s.foldResult f ch := by
  rw [State.result, h]

theorem State.foldResult_congr {s t : State} {ch : Ch} (hmem : s.SameMemory t) (hcrc : t.crc ch = s.crc ch) (f : FoldState) :
    t.foldResult f ch = s.foldResult f ch := by
  rw [State.foldResult, hcrc, State.memByte_of_sameMemory hmem, State.foldResult]

/-- A synthesis changes no CRC and no byte, so nothing of what the command computes. -/
theorem State.synthStep_result {s : State} {ch : Ch} {n : Option FoldState} (hs : s.seq = .synth ch n) :
    (s.synthStep ch n).result ch = s.result ch := by
  cases n with
  | none => simp [State.result, State.synthStep, seqAfterSynth, Seq.latched, hs]
  | some f =>
    rw [State.result_of_latched (f := f) rfl, State.result_of_latched (f := f) (by rw [hs]; rfl)]
    exact State.foldResult_congr (State.seqStep_of_synth hs ▸ s.seqStep_sameMemory) (s.synthStep_crc ch ch _) f

/-- The fold after a synthesis reads the entries just synthesized, or those of TROM, which are the same (R104, R107). -/
theorem State.synthStep_foldsOn (s : State) {ch : Ch} {n : Option FoldState} (hn : ∀ f ∈ n, f.ch = ch) :
    (s.synthStep ch n).FoldsOn ch := by
  cases n with
  | none => exact trivial
  | some f =>
    refine ⟨hn f rfl, funext fun i => ?_⟩
    cases hsrc : f.src with
    | rom => rfl
    | ram => simp [State.table, State.synthStep]

section
variable {s : State} {f : FoldState} (hs : s.seq = .fold f)
include hs

/-- A fold step leaves the table its next step reads. -/
theorem State.foldStep_foldsOn (htab : s.table f.ch f.src = f.ch.synthEntry) : (s.foldStep f).FoldsOn f.ch := by
  obtain hi | ⟨-, hseq⟩ := s.foldStep_seq f
  · simp [State.FoldsOn, hi]
  · simp only [State.FoldsOn, hseq, ← htab, true_and]
    exact State.table_of_sameTable (State.foldStep_sameTable hs) f.src

/-- A fold step moves one byte from the pending ones into the register, or ends with none left to take (R144, R146). -/
theorem State.foldStep_result (hpend : s.AdmitsPending) (hraced : s.raced = [])
    (htab : s.table f.ch f.src = f.ch.synthEntry) : (s.foldStep f).result f.ch = s.result f.ch := by
  rw [State.result_of_latched (s := s) (f := f) (by rw [hs]; rfl), State.foldResult]
  by_cases hk : f.k = f.len
  · rw [FoldState.pendingAddrs_of_done hk, State.result_of_idle] <;> simp [State.foldStep, hk]
  · have hm := hpend.next hs hk
    rw [FoldState.pendingAddrs_of_ne hk, List.map_cons, ← State.portByte_of_no_race hraced]
    by_cases hz : f.mode = .z ∧ s.portByte f.address = 0
    · obtain ⟨hidle, hcrc, -⟩ := State.foldStep_of_terminator hk hm hz
      rw [State.result_of_idle hidle, hcrc, FoldMode.taken_of_terminator _ hz, Ch.foldBytes_nil]
    · obtain ⟨hcrc, -, hseq⟩ := State.foldStep_of_not_terminator hk hm hz
      rw [State.result_of_latched (by rw [hseq]; rfl), State.foldResult, hcrc, htab,
        State.memByte_of_sameMemory (s.foldStep_sameMemory f), FoldMode.taken_of_not_terminator _ hz, Ch.foldBytes_cons]

end

theorem State.seqStep_raced (s : State) : s.seqStep.raced = s.raced := by
  cases hs : s.seq with
  | idle => rw [State.seqStep_of_idle hs]
  | synth ch n => rw [State.seqStep_of_synth hs]; simp [State.synthStep]
  | fold f =>
    rw [State.seqStep_of_fold hs]
    obtain ⟨-, he⟩ | ⟨-, -, he⟩ | ⟨-, -, -, -, he⟩ | ⟨-, -, -, he⟩ := s.foldStep_cases f <;>
      simp [he, State.foldNext, State.foldByte]

/-- A turn of the sequencer changes nothing of what the machine computes. -/
theorem State.seqStep_computes {s : State} {ch : Ch} {r : BitVec ch.width} (h : s.Computes ch r) :
    s.seqStep.Computes ch r := by
  have hclean := keptByPoll_runsClean.sequencer s h.clean
  have hraced := s.seqStep_raced.trans h.raced
  have hon := h.channel
  have hpend := h.clean.2
  cases hs : s.seq with
  | idle => rwa [State.seqStep_of_idle hs]
  | synth c n =>
    rw [State.FoldsOn, hs] at hon
    obtain ⟨rfl, hn⟩ := hon
    rw [State.seqStep_of_synth hs] at hclean hraced ⊢
    exact ⟨hclean, hraced, s.synthStep_foldsOn hn, (State.synthStep_result hs).trans h.result⟩
  | fold f =>
    rw [State.FoldsOn, hs] at hon
    obtain ⟨rfl, htab⟩ := hon
    rw [State.seqStep_of_fold hs] at hclean hraced ⊢
    exact ⟨hclean, hraced, State.foldStep_foldsOn hs htab, (State.foldStep_result hs hpend h.raced htab).trans h.result⟩

/-- What the machine computes depends on the block, the memory and the races, not on the host's side. -/
theorem State.Computes.of_sameBlock {s t : State} {ch : Ch} {r : BitVec ch.width} (h : s.Computes ch r)
    (hb : s.SameBlock t) (hm : s.SameMemory t) (hr : t.raced = s.raced) : t.Computes ch r where
  clean := ⟨hb.fault.trans h.clean.1, fun f hf a hmem => (hm.2.2 a).2.trans (h.clean.2 f (hb.seq ▸ hf) a hmem)⟩
  raced := hr.trans h.raced
  channel := by
    have hon := h.channel
    rw [State.FoldsOn] at hon ⊢
    rw [hb.seq]
    cases hs : s.seq <;> rw [hs] at hon
    case fold f => exact ⟨hon.1, (State.table_of_chan_eq (hb.channels ch) f.src).trans hon.2⟩
    all_goals exact hon
  result := by
    rw [← h.result, State.result, State.result, hb.seq]
    cases s.seq.latched with
    | none => exact hb.crc ch
    | some f => exact State.foldResult_congr hm (hb.crc ch) f

theorem keptByPoll_computes (ch : Ch) (r : BitVec ch.width) : KeptByPoll (State.Computes ch r) where
  host s is rs h := h.of_sameBlock ⟨fun c => by simp, rfl, rfl, rfl, rfl, rfl, rfl⟩ (State.sameMemory_of_eq rfl rfl) rfl
  sequencer _ := State.seqStep_computes

/-- A fold that starts has the whole buffer to read (R142, R145). -/
theorem State.latchFold_pendingAddrs (s : State) (ch : Ch) (src : TSrc) (mode : FoldMode) :
    (s.latchFold ch src mode).pendingAddrs = s.bufferAddrs := by
  simp [State.latchFold, FoldState.pendingAddrs, State.bufferAddrs]

section
variable {s : State} (hrange : s.RangeOk) (ch : Ch) (src : TSrc) (mode : FoldMode)
include hrange

/-- What an accepted CALC or CALCZ of a buffer that R68 lets through does (R142, R145). -/
theorem State.startFold_frame :
    (s.startFold ch src mode).seq.latched = some (s.latchFold ch src mode) ∧ (s.startFold ch src mode).fault = s.fault ∧
    (s.startFold ch src mode).raced = [] ∧ (s.startFold ch src mode).crc ch = ch.init ∧
    (s.startFold ch src mode).FoldsOn ch ∧ (s.startFold ch src mode).inputs = s.inputs := by
  have hok := s.rangeBad_eq_false_iff.2 hrange
  obtain ⟨hbad, -⟩ | ⟨-, rfl, he⟩ | ⟨-, rfl, he⟩ := s.startFold_cases ch src mode
  · simp [hok] at hbad
  · rw [he]
    exact ⟨rfl, by simp, rfl, by simp, ⟨rfl, rfl⟩, by simp⟩
  · rw [he]
    have hnext : ∀ f ∈ some (s.latchFold ch .ram mode), f.ch = ch := by rintro f ⟨⟩; rfl
    exact ⟨rfl, by simp [State.startSynth], by simp [State.startSynth], by simp [State.startSynth], ⟨rfl, hnext⟩,
      by simp [State.startSynth]⟩

/-- An accepted CALC or CALCZ over a buffer that may be read sets out to compute the fold of the bytes it takes (R142,
R145). -/
theorem State.startFold_computes (hf : s.fault = false) (hadm : s.AdmitsFirst s.len.toNat) :
    (s.startFold ch src mode).Computes ch (ch.foldBytes ch.init (mode.taken s.buffer)) := by
  obtain ⟨hlatched, hfault, hraced, hcrc, hon, -⟩ := State.startFold_frame hrange ch src mode
  have hmem := s.startFold_sameMemory ch src mode
  refine ⟨⟨hfault.trans hf, fun f hl a ha => ?_⟩, hraced, hon, ?_⟩
  · obtain rfl : s.latchFold ch src mode = f := by simpa [hlatched] using hl
    rw [State.latchFold_pendingAddrs] at ha
    obtain ⟨k, hk, rfl⟩ := List.mem_map.1 ha
    exact (hmem.2.2 _).2.trans (hadm k (List.mem_range.1 hk))
  · rw [State.result_of_latched hlatched, State.foldResult, hcrc, State.latchFold_pendingAddrs,
      State.memByte_of_sameMemory hmem]
    rfl

end

/-! ### The host programs of R91 -/

/-- A block that takes commands still takes them after a write of a CRC. -/
theorem State.setCrc_accepts (s : State) (ch : Ch) (v : BitVec ch.width) (h : s.Accepts) : (s.setCrc ch v).Accepts := by
  simpa [State.Accepts, State.busy] using h

theorem regAt_offsetOf_digest (ch : Ch) : regAt (offsetOf (.digest ch)) = some (.digest ch) := by cases ch <;> decide

section
variable {s : State} (ha : s.Accepts) {rest : List Event}
include ha

/-- A write of a register on a block that takes commands is the register's write effect (R163). -/
theorem step_wrReg {r : Reg} {v : Word} (hr : regAt (offsetOf r) = some r) (hin : s.inputs = wrReg r v :: rest) :
    step s = State.writeReg { s with inputs := rest } r v := by
  rw [step_of_inputs hin]
  simp [wrReg, State.handle, State.wr, validAccess, hr, ha.1, State.busy, ha.idle]

/-- A command line of a host program, on a block that takes commands, is the command's effect (R164). -/
theorem step_wrCmd {i : Instr} (hin : s.inputs = wrCmd i :: rest) :
    step s = .next (effect i { s with inputs := rest }) := by
  rw [step_wrReg ha rfl hin, State.writeReg, State.accept, decode_encode]
  exact exec_of_accepts i _ ha

/-- A program whose last line reads DIGEST_ch ends there without an error, with the digest read (R91, R207). -/
theorem reaches_end_of_rdDigest {ch : Ch} (hin : s.inputs = [rdReg (.digest ch)]) :
    ∃ u, s.Reaches u ∧ u.EndedWithoutError ∧ u.reads.getLast? = some ((ch.fx (s.crc ch)).setWidth 64) := by
  have hstep : step s = .next { s with inputs := [], reads := s.reads ++ [(ch.fx (s.crc ch)).setWidth 64] } := by
    rw [step_of_inputs hin]
    simp [rdReg, State.handle, State.rd, validAccess, regAt_offsetOf_digest, State.readReg, ha.1, State.busy, ha.idle,
      State.readValue, State.digest, State.reply]
  exact ⟨_, .single hstep, ⟨⟨by simp, ha.idle⟩, ha.1⟩, by simp⟩

/-- The first two lines of a buffer program set ADDR and LEN (R163). -/
theorem reaches_of_wrAddrLen {a n : Word} (hin : s.inputs = wrReg .addr a :: wrReg .len n :: rest) :
    s.Reaches { s with addr := a, len := n, inputs := rest } :=
  .head (step_wrReg ha rfl hin)
    (.single (step_wrReg (s := { s with addr := a, inputs := wrReg .len n :: rest }) ha rfl rfl))

end

/-- A poll and the read of DIGEST_ch end without an error, and read what the machine was on the way to (R91, R207). -/
theorem reaches_end_of_pollDigest {s : State} {ch : Ch} {r : BitVec ch.width} (hc : s.Computes ch r)
    (hin : s.inputs = [.poll, rdReg (.digest ch)]) :
    ∃ u, s.Reaches u ∧ u.EndedWithoutError ∧ u.reads.getLast? = some ((ch.fx r).setWidth 64) := by
  obtain ⟨t, hpoll, hidle, hrest, -, hkept⟩ := reaches_end_of_poll hin
  have ht : t.Computes ch r := hkept _ (keptByPoll_computes ch r) hc
  have hcrc : t.crc ch = r := (State.result_of_idle hidle ch).symm.trans ht.result
  obtain ⟨u, hread, hend, hlast⟩ := reaches_end_of_rdDigest ⟨ht.clean.1, t.busy_eq_false_iff.2 hidle⟩ hrest
  exact ⟨u, hpoll.trans hread, hend, hcrc ▸ hlast⟩

section
variable {s : State} (ha : s.Accepts) {rest : List Event}
include ha

/-- A buffer program whose command starts a fold ends without an error, with the digest of the bytes the fold takes (R91). -/
theorem reaches_end_of_overBuffer {i : Instr} {ch : Ch} {src : TSrc} {mode : FoldMode}
    (hi : effect i = fun t => t.startFold ch src mode) {a n : Word} (hin : s.inputs = overBuffer i ch a n)
    (hrange : ({ s with addr := a, len := n } : State).RangeOk)
    (hadm : ({ s with addr := a, len := n } : State).AdmitsFirst n.toNat) :
    ∃ m u, run m s = .next u ∧ u.EndedWithoutError ∧ u.reads.getLast? = some
      ((ch.calculate (mode.taken ({ s with addr := a, len := n } : State).buffer)).setWidth 64) := by
  let t : State := { s with addr := a, len := n, inputs := [.poll, rdReg (.digest ch)] }
  have hstart : step { t with inputs := wrCmd i :: t.inputs } = .next (t.startFold ch src mode) :=
    (step_wrCmd (s := { t with inputs := wrCmd i :: t.inputs }) ha rfl).trans (by rw [hi])
  obtain ⟨-, -, -, -, -, hrest⟩ := State.startFold_frame (s := t) hrange ch src mode
  have hcomp := State.startFold_computes (s := t) hrange ch src mode ha.1 hadm
  obtain ⟨u, hu, hend, hlast⟩ := reaches_end_of_pollDigest hcomp hrest
  obtain ⟨m, hm⟩ := (reaches_of_wrAddrLen ha hin).trans (.head hstart hu)
  exact ⟨m, u, hm, hend, hlast⟩

/-- Updates from TROM one after another fold their bytes in order (R124, R140). -/
theorem reaches_end_of_updates {ch : Ch} {bs : List Byte}
    (hin : s.inputs = bs.map (fun b => wrCmd (.update ch .rom b)) ++ rest) :
    ∃ u, s.Reaches u ∧ u.Accepts ∧ u.inputs = rest ∧ u.crc ch = ch.foldBytes (s.crc ch) bs := by
  induction bs generalizing s with
  | nil => exact ⟨s, .refl s, ha, hin, rfl⟩
  | cons b bs ih =>
    let t : State := { s with inputs := bs.map (fun b => wrCmd (.update ch .rom b)) ++ rest }
    have hstep : step s = .next (t.foldByte ch .rom b) := step_wrCmd ha hin
    have hcrc : (t.foldByte ch .rom b).crc ch = ch.update (s.crc ch) ch.synthEntry b := by
      rw [← s.crc_mk ch]; exact t.setCrc_crc ch _
    obtain ⟨u, hreach, hu, hrest, hfold⟩ :=
      ih (s := t.foldByte ch .rom b) (t.setCrc_accepts ch _ ha) (t.setCrc_inputs ch _)
    exact ⟨u, .head hstep hreach, hu, hrest, by rw [hfold, hcrc, Ch.foldBytes_cons]⟩

/-- SEED, one UPDATE from TROM for each byte and the read of DIGEST_ch end without an error, with the digest of the bytes
(R91, R150). -/
theorem reaches_end_of_calculateStaticSeq {ch : Ch} {bs : List Byte} (hin : s.inputs = calculateStaticSeq ch bs) :
    ∃ m u, run m s = .next u ∧ u.EndedWithoutError ∧ u.reads.getLast? = some ((ch.calculate bs).setWidth 64) := by
  let t : State := { s with inputs := bs.map (fun b => wrCmd (.update ch .rom b)) ++ [rdReg (.digest ch)] }
  have hseed : step s = .next (t.setCrc ch ch.init) := step_wrCmd ha hin
  obtain ⟨u, hu, hacc, hrest, hcrc⟩ :=
    reaches_end_of_updates (s := t.setCrc ch ch.init) (t.setCrc_accepts ch _ ha) (t.setCrc_inputs ch _)
  rw [State.setCrc_crc] at hcrc
  obtain ⟨w, hread, hend, hlast⟩ := reaches_end_of_rdDigest hacc hrest
  obtain ⟨m, hm⟩ := State.Reaches.head hseed (hu.trans hread)
  exact ⟨m, w, hm, hend, by rw [hlast, hcrc]; rfl⟩

end

/-- Settles O58: the buffer programs by their common shape, the sequence of listed bytes by its updates. -/
theorem hostProgramsReturnTheDigest : Obligations.HostProgramsReturnTheDigest := by
  refine ⟨fun ch a n s ha hrange hadm => ⟨?_, fun hin => ?_⟩, fun ch bs s ha hin => ?_⟩
  · rintro (hin | hin | hin)
    · exact reaches_end_of_overBuffer ha (src := .ram) (mode := .len) rfl hin hrange hadm
    · exact reaches_end_of_overBuffer ha (src := .rom) (mode := .len) rfl hin hrange hadm
    · exact reaches_end_of_overBuffer ha (src := .rom) (mode := .len) rfl hin hrange hadm
  · exact reaches_end_of_overBuffer ha (src := .rom) (mode := .z) rfl hin hrange hadm
  · exact reaches_end_of_calculateStaticSeq ha hin

end Sys2Proof.Machine
end

section
/-! SUPPORT. The rest of the arithmetic of a table entry (40_table.md R100, R101; 41_accumulate.md R120, R126): a feedback
step loses nothing, eight of them shift out a byte of zeros, and so an update is the bit-serial form. -/

namespace Sys2Proof

/-! ### A feedback step loses nothing -/

/-- The bit of POLY that a step shifts a 0 into is 1. -/
theorem Ch.poly_bit_shifted_in (ch : Ch) : (if ch.refl then ch.poly.msb else ch.poly.getLsbD 0) = true := by
  cases ch <;> decide

/-- The bit that a step shifts in is the bit it tested: the reflected form. -/
theorem Ch.feedback_msb_of_refl {ch : Ch} (hr : ch.refl = true) (x : BitVec ch.width) :
    (ch.feedback x).msb = x.getLsbD 0 := by
  have hp : ch.poly.msb = true := by simpa [hr] using ch.poly_bit_shifted_in
  cases hx : x.getLsbD 0 <;> simp [Ch.feedback, hr, hx, hp]

/-- The bit that a step shifts in is the bit it tested: the non-reflected form. -/
theorem Ch.feedback_bit0_of_not_refl {ch : Ch} (hr : ch.refl = false) (x : BitVec ch.width) :
    (ch.feedback x).getLsbD 0 = x.msb := by
  have hp : ch.poly.getLsbD 0 = true := by simpa [hr] using ch.poly_bit_shifted_in
  cases hx : x.msb <;> simp [Ch.feedback, hr, hx, hp]

theorem Ch.feedback_eq_zero {ch : Ch} {x : BitVec ch.width} (h : ch.feedback x = 0#ch.width) : x = 0#ch.width := by
  cases hr : ch.refl with
  | true =>
    have hx : x.getLsbD 0 = false := by rw [← Ch.feedback_msb_of_refl hr, h, BitVec.msb_zero]
    have hshift : x >>> 1 = 0#ch.width := by simpa [Ch.feedback, hr, hx] using h
    refine BitVec.eq_of_getLsbD_eq fun i hi => ?_
    cases i with
    | zero => simpa using hx
    | succ i => simpa [Nat.add_comm] using congrArg (·.getLsbD i) hshift
  | false =>
    have hx : x.msb = false := by rw [← Ch.feedback_bit0_of_not_refl hr, h, BitVec.getLsbD_zero]
    have hshift : x <<< 1 = 0#ch.width := by simpa [Ch.feedback, hr, hx] using h
    refine BitVec.eq_of_getMsbD_eq fun i hi => ?_
    cases i with
    | zero => exact hx.trans BitVec.msb_zero.symm
    | succ i => simpa [Nat.add_comm, Nat.lt_of_succ_lt hi] using congrArg (·.getMsbD i) hshift

theorem Ch.feedback_injective (ch : Ch) : Function.Injective ch.feedback := by
  intro a b h
  refine BitVec.xor_eq_zero_iff.1 (Ch.feedback_eq_zero ?_)
  rw [Ch.feedback_xor, h, BitVec.xor_self]

theorem Ch.feedback8_injective (ch : Ch) : Function.Injective ch.feedback8 := ch.feedback_injective.iterate 8

/-! ### The byte an update takes out of the register -/

theorem Ch.updateIndex_xor (ch : Ch) (r r' : BitVec ch.width) (b : Byte) :
    ch.updateIndex (r ^^^ r') b = ch.updateIndex r b ^^^ ch.updateIndex r' 0 := by
  unfold Ch.updateIndex
  split
  · simp only [BitVec.ofNat_eq_ofNat, BitVec.setWidth_xor, BitVec.setWidth_zero, BitVec.xor_zero]; ac_rfl
  · simp only [BitVec.ofNat_eq_ofNat, BitVec.setWidth_xor, BitVec.ushiftRight_xor_distrib, BitVec.xor_zero]; ac_rfl

theorem Ch.updateIndex_xor_byte (ch : Ch) (r : BitVec ch.width) (b c : Byte) :
    ch.updateIndex r (b ^^^ c) = ch.updateIndex r b ^^^ c := by
  unfold Ch.updateIndex
  split
  · have hw := ch.eight_le_width
    simp only [BitVec.setWidth_xor, BitVec.setWidth_setWidth_of_le _ hw, BitVec.setWidth_eq]; ac_rfl
  · ac_rfl

/-- The byte that `place` puts into a register is the one the next update takes out. -/
@[simp] theorem Ch.updateIndex_place (ch : Ch) (b : Byte) : ch.updateIndex (ch.place b) 0 = b := by
  have hw := ch.eight_le_width
  cases hr : ch.refl with
  | true => simp [Ch.updateIndex, Ch.place, hr, hw, BitVec.setWidth_setWidth_of_le]
  | false =>
    refine BitVec.eq_of_getLsbD_eq fun i hi => ?_
    have hi' : i < ch.width := hi.trans_le hw
    have hin : ch.width - 8 + i < ch.width := by omega
    simp [Ch.updateIndex, Ch.place, hr, hi, hi', hin]

theorem Ch.place_injective (ch : Ch) : Function.Injective ch.place :=
  Function.LeftInverse.injective (g := fun r => ch.updateIndex r 0) ch.updateIndex_place

/-! ### Eight feedback steps on a register whose next byte is zero -/

theorem Ch.iterate_feedback_of_low_zero {ch : Ch} (hr : ch.refl = true) (x : BitVec ch.width) (n : Nat)
    (hx : ∀ i < n, x.getLsbD i = false) : ch.feedback^[n] x = x >>> n := by
  induction n with
  | zero => simp
  | succ n ih =>
    rw [Function.iterate_succ_apply', ih fun i hi => hx i (Nat.lt_succ_of_lt hi)]
    simp [Ch.feedback, hr, hx n (Nat.lt_succ_self n), BitVec.shiftRight_add]

theorem Ch.iterate_feedback_of_high_zero {ch : Ch} (hr : ch.refl = false) (x : BitVec ch.width) (n : Nat)
    (hx : ∀ i < n, x.getMsbD i = false) : ch.feedback^[n] x = x <<< n := by
  induction n with
  | zero => simp
  | succ n ih =>
    rw [Function.iterate_succ_apply', ih fun i hi => hx i (Nat.lt_succ_of_lt hi)]
    simp [Ch.feedback, hr, hx n (Nat.lt_succ_self n), BitVec.shiftLeft_add]

/-- The register moved on by a byte: what an update leaves where its table entry is zero (R120). -/
def Ch.shift8 (ch : Ch) (r : BitVec ch.width) : BitVec ch.width :=
  if ch.refl then r >>> 8 else r <<< 8

theorem Ch.update_eq (ch : Ch) (r : BitVec ch.width) (T : Byte → BitVec ch.width) (b : Byte) :
    ch.update r T b = T (ch.updateIndex r b) ^^^ ch.shift8 r := by
  unfold Ch.update Ch.shift8
  split <;> rfl

theorem Ch.shift8_xor (ch : Ch) (a b : BitVec ch.width) : ch.shift8 (a ^^^ b) = ch.shift8 a ^^^ ch.shift8 b := by
  unfold Ch.shift8
  split
  · exact BitVec.ushiftRight_xor_distrib ..
  · exact BitVec.shiftLeft_xor_distrib ..

@[simp] theorem Ch.shift8_place (ch : Ch) (b : Byte) : ch.shift8 (ch.place b) = 0#ch.width := by
  have hw := ch.eight_le_width
  cases hr : ch.refl with
  | true => exact BitVec.eq_of_getLsbD_eq fun i hi => by simp [Ch.shift8, Ch.place, hr]
  | false =>
    simp [Ch.shift8, Ch.place, hr, ← BitVec.shiftLeft_add, Nat.sub_add_cancel hw, BitVec.shiftLeft_eq_zero]

/-- Eight feedback steps shift out a byte of zeros without a feedback (R100, R126). -/
theorem Ch.feedback8_of_updateIndex_eq_zero {ch : Ch} {x : BitVec ch.width} (h : ch.updateIndex x 0 = 0) :
    ch.feedback8 x = ch.shift8 x := by
  have hw := ch.eight_le_width
  cases hr : ch.refl with
  | true =>
    rw [Ch.feedback8, Ch.iterate_feedback_of_low_zero hr, Ch.shift8, if_pos hr]
    intro i hi
    simpa [Ch.updateIndex, hr, hi] using congrArg (·.getLsbD i) h
  | false =>
    rw [Ch.feedback8, Ch.iterate_feedback_of_high_zero hr, Ch.shift8, if_neg (by simp [hr])]
    intro i hi
    have hbit : x.getLsbD (ch.width - 8 + (7 - i)) = false := by
      simpa [Ch.updateIndex, hr, show 7 - i < 8 by omega] using congrArg (·.getLsbD (7 - i)) h
    rw [BitVec.getMsbD, show ch.width - 1 - i = ch.width - 8 + (7 - i) by omega, hbit, Bool.and_false]

/-- Without the byte that an update looks up, a register's next byte is zero (R120). -/
theorem Ch.updateIndex_xor_place_eq_zero (ch : Ch) (r : BitVec ch.width) (b : Byte) :
    ch.updateIndex (r ^^^ ch.place b ^^^ ch.place (ch.updateIndex r b)) 0 = 0 := by
  have h : ch.updateIndex r b = ch.updateIndex r 0 ^^^ b := by
    rw [← Ch.updateIndex_xor_byte]; simp
  rw [Ch.updateIndex_xor, Ch.updateIndex_xor, Ch.updateIndex_place, Ch.updateIndex_place, h, BitVec.xor_self]
  rfl

/-- An update with the synthesized entries is the bit-serial form (R126). -/
theorem Ch.update_eq_bitwise (ch : Ch) (r : BitVec ch.width) (b : Byte) :
    ch.update r ch.synthEntry b = ch.bitwise r b := by
  have hzero := ch.updateIndex_xor_place_eq_zero r b
  set i := ch.updateIndex r b
  calc ch.update r ch.synthEntry b
    _ = ch.feedback8 (ch.place i) ^^^ ch.shift8 r := ch.update_eq r _ b
    _ = ch.feedback8 (ch.place i) ^^^ ch.feedback8 (r ^^^ ch.place b ^^^ ch.place i) := by
      rw [Ch.feedback8_of_updateIndex_eq_zero hzero]; simp [Ch.shift8_xor]
    _ = ch.feedback8 (r ^^^ ch.place b) := by
      rw [← Ch.feedback8_xor, BitVec.xor_comm, BitVec.xor_assoc, BitVec.xor_self, BitVec.xor_zero]

/-! ### The laws of R101 -/

theorem Ch.synthEntry_xor (ch : Ch) (a b : Byte) :
    ch.synthEntry (a ^^^ b) = ch.synthEntry a ^^^ ch.synthEntry b := by
  rw [Ch.synthEntry, Ch.place_xor, Ch.feedback8_xor, Ch.synthEntry, Ch.synthEntry]

theorem Ch.synthEntry_zero (ch : Ch) : ch.synthEntry 0 = 0#ch.width := by
  have h := ch.synthEntry_xor 0 0
  rwa [BitVec.xor_self, BitVec.xor_self] at h

theorem Ch.synthEntry_injective (ch : Ch) : Function.Injective ch.synthEntry :=
  ch.feedback8_injective.comp ch.place_injective

end Sys2Proof

namespace Sys2Proof.Machine

/-- A synthesis fills TRAM[ch] with the synthesized entries (R102). -/
@[simp] theorem State.synthStep_tram (s : State) (ch : Ch) (n : Option FoldState) (i : Byte) :
    (s.synthStep ch n).tram ch i = ch.synthEntry i := by
  simp [State.synthStep]

/-- Settles O7: the entries depend on no state, and their laws are those of eight feedback steps on a placed byte. -/
theorem tableEntriesAreLinear : Obligations.TableEntriesAreLinear := by
  refine ⟨fun ch s s' i => ?_, Ch.synthEntry_zero, Ch.synthEntry_xor, by decide +kernel, by decide +kernel,
    fun ch _ _ h => ch.synthEntry_injective h⟩
  rw [State.synthStep_tram, State.synthStep_tram]

end Sys2Proof.Machine
end

section
/-! SUPPORT. The tables and the invariant (40_table.md R102, R106, R107): what a synthesis leaves, that either table gives
one update, and the invariant under each operation of the block and so under every step. -/

namespace Sys2Proof.Machine

/-! ### What a synthesis leaves -/

/-- Nothing is changed but the table of channel `ch` and the sequencer. -/
structure State.SameButTable (s t : State) (ch : Ch) : Prop where
  crc : t.crc ch = s.crc ch
  channels : s.SameChannelsBut t ch
  addrLen : s.SameAddrLen t
  count : t.count = s.count
  fault : t.fault = s.fault
  err : t.err = s.err
  memory : s.SameMemory t
  port : s.NoRead t
  host : s.SameHost t

theorem State.SameMemory.trans {s t u : State} (h : s.SameMemory t) (h' : t.SameMemory u) : s.SameMemory u :=
  State.sameMemory_of_eq (h'.1.trans h.1) (h'.2.1.trans h.2.1)

theorem State.SameButTable.trans {s t u : State} {ch : Ch} (h : s.SameButTable t ch) (h' : t.SameButTable u ch) :
    s.SameButTable u ch where
  crc := h'.crc.trans h.crc
  channels c hc := (h'.channels c hc).trans (h.channels c hc)
  addrLen := ⟨h'.addrLen.1.trans h.addrLen.1, h'.addrLen.2.trans h.addrLen.2⟩
  count := h'.count.trans h.count
  fault := h'.fault.trans h.fault
  err := h'.err.trans h.err
  memory := h.memory.trans h'.memory
  port := Eq.trans h'.port h.port
  host := ⟨h'.host.1.trans h.host.1, h'.host.2.1.trans h.host.2.1, h'.host.2.2.trans h.host.2.2⟩

/-- The start of a synthesis (R102). -/
theorem State.startSynth_sameButTable (s : State) (ch : Ch) (n : Option FoldState) :
    s.SameButTable (s.startSynth ch n) ch where
  crc := by simp [State.startSynth]
  channels c hc := by simp [State.startSynth, State.setTvalid_chan_ne _ _ _ _ hc]
  addrLen := by simp [State.SameAddrLen, State.startSynth]
  count := by simp [State.startSynth]
  fault := by simp [State.startSynth]
  err := by simp [State.startSynth]
  memory := State.sameMemory_of_eq (by simp [State.startSynth]) (by simp [State.startSynth])
  port := by simp [State.NoRead, State.startSynth]
  host := by simp [State.SameHost, State.startSynth]

/-- The synthesis itself (R102). -/
theorem State.synthStep_sameButTable (s : State) (ch : Ch) (n : Option FoldState) :
    s.SameButTable (s.synthStep ch n) ch where
  crc := s.synthStep_crc ch ch n
  channels c hc := s.synthStep_chan_ne n hc
  addrLen := by simp [State.SameAddrLen, State.synthStep]
  count := by simp [State.synthStep]
  fault := by simp [State.synthStep]
  err := by simp [State.synthStep]
  memory := State.sameMemory_of_eq (by simp [State.synthStep]) (by simp [State.synthStep])
  port := by simp [State.NoRead, State.synthStep]
  host := by simp [State.SameHost, State.synthStep]

@[simp] theorem State.startSynth_tvalid (s : State) (ch : Ch) (n : Option FoldState) :
    (s.startSynth ch n).tvalid ch = false := by
  simp [State.startSynth]

@[simp] theorem State.startSynth_tram (s : State) (ch d : Ch) (n : Option FoldState) (i : Byte) :
    (s.startSynth ch n).tram d i = s.tram d i := by
  simp [State.startSynth]

/-- Settles O18: what the acceptance and the synthesis each do to the table, and leave. -/
theorem synthFillsTable : Obligations.SynthFillsTable := by
  intro ch s ha hin
  let t := s.startSynth ch none
  have ht : s.SameButTable t ch := s.startSynth_sameButTable ch none
  have hu : s.SameButTable (t.synthStep ch none) ch := ht.trans (t.synthStep_sameButTable ch none)
  have hstep : step t = .next (t.synthStep ch none) := by
    rw [step, ht.host.1, hin, State.seqStep_of_synth (s := t) rfl]
  refine ⟨t, _, exec_of_accepts _ s ha, hstep, ?_, ?_, ?_, ?_⟩
  · exact ⟨s.startSynth_tvalid ch none, rfl, ht.fault.trans ha.1, ht.err, ht.crc⟩
  · exact ⟨s.startSynth_tram ch ch none, ht.channels, ht.addrLen, ht.count, ht.memory, ht.port, ht.host⟩
  · exact ⟨t.synthStep_tvalid_same ch none, t.synthStep_tram ch none, hu.crc⟩
  · exact ⟨hu.channels, hu.addrLen, hu.count, ⟨hu.fault, hu.err, ha.idle.symm⟩, hu.memory, hu.port, hu.host⟩

/-! ### Either table gives one update -/

/-- Under table equivalence a valid TRAM and TROM are one table (R106, R107). -/
theorem State.TableConsistent.table_eq {s : State} (h : s.TableConsistent) {ch : Ch} (hv : s.tvalid ch = true) :
    s.table ch .ram = ch.synthEntry :=
  funext fun i => h ch i hv

/-- Settles O17: both updates fold the byte through the synthesized entries, which is the bit-serial form. -/
theorem updateIgnoresTableSource : Obligations.UpdateIgnoresTableSource := by
  intro ch imm s ha htab hv
  have hram : effect (.update ch .ram imm) s = s.foldByte ch .rom imm := by
    rw [effect, if_neg (by simp [hv]), State.foldByte, htab.table_eq hv]
    rfl
  refine ⟨s.foldByte ch .rom imm, exec_of_accepts _ s ha, by rw [exec_of_accepts _ s ha, hram], ?_⟩
  rw [State.foldByte, State.setCrc_crc]
  exact ch.update_eq_bitwise (s.crc ch) imm

/-! ### The invariant: its parts -/

section
variable {s t : State}

theorem State.faultConsistent_of_clean (hf : s.fault = false) (he : s.err = .none) : s.FaultConsistent :=
  ⟨by simp [hf, he], by simp [hf]⟩

theorem State.FaultConsistent.err_eq_none (h : s.FaultConsistent) (hf : s.fault = false) : s.err = .none := by
  by_contra he
  exact absurd (h.1.2 he) (by simp [hf])

/-- A block that is BUSY is not in FAULT (R176). -/
theorem State.FaultConsistent.fault_eq_false (h : s.FaultConsistent) (hs : s.seq ≠ .idle) : s.fault = false := by
  by_contra hf
  exact hs (h.2 (by simpa using hf))

theorem State.sameTable_of_chan_eq {ch : Ch} (h : t.chan ch = s.chan ch) : s.SameTable t ch :=
  ⟨congrArg Channel.tvalid h, fun i => by simp [State.tram, h]⟩

/-- Table equivalence holds on where every table that is valid afterwards is the one it was (R106). -/
theorem State.TableConsistent.of_sameTable (h : s.TableConsistent) (ht : ∀ ch, t.tvalid ch = true → s.SameTable t ch) :
    t.TableConsistent := by
  intro ch i hv
  obtain ⟨htvalid, htram⟩ := ht ch hv
  rw [htram i, h ch i (htvalid ▸ hv)]

theorem State.seqConsistent_of_idle (h : s.seq = .idle) : s.SeqConsistent := by
  simp [State.SeqConsistent, h]

/-- A synthesis runs under TVALID 0 (R26). -/
theorem State.SeqConsistent.tvalid_of_synth (h : s.SeqConsistent) {ch : Ch} {n : Option FoldState}
    (hs : s.seq = .synth ch n) : s.tvalid ch = false := by
  cases n <;> simp only [State.SeqConsistent, hs] at h
  · exact h
  · exact h.1

/-- A fold before its bound has a next index in its range (R40). -/
theorem FoldState.InRange.next {f : FoldState} (h : f.InRange) (hk : f.k ≠ f.len) :
    ({ f with k := f.k + 1 } : FoldState).InRange :=
  ⟨by have := h.1; show (f.k + 1).toNat ≤ f.len.toNat; bv_omega, h.2⟩

theorem State.latchFold_inRange (h : s.RangeOk) (ch : Ch) (src : TSrc) (mode : FoldMode) :
    (s.latchFold ch src mode).InRange :=
  ⟨Nat.zero_le _, h⟩

end

/-! ### The invariant: what keeps it -/

section
variable {s t : State} (h : s.Inv)
include h

/-- The invariant speaks of the block and of memory's form. -/
theorem State.Inv.of_sameBlock (hb : s.SameBlock t) (hm : Memory.wf t.mem = true) : t.Inv where
  memory := hm
  faults := by simpa only [State.FaultConsistent, hb.fault, hb.err, hb.seq] using h.faults
  tables := h.tables.of_sameTable fun ch _ => State.sameTable_of_chan_eq (hb.channels ch)
  sequencer := by simpa only [State.SeqConsistent, hb.seq, hb.count, hb.tvalid] using h.sequencer

/-- Outside FAULT, where no error arises, the tables and the sequencer are what is left to show. -/
theorem State.Inv.of_no_error (hf : s.fault = false) (hfault : t.fault = s.fault) (herr : t.err = s.err)
    (hm : s.SameMemory t) (htab : t.TableConsistent) (hseq : t.SeqConsistent) : t.Inv where
  memory := hm.1 ▸ h.memory
  faults := State.faultConsistent_of_clean (hfault.trans hf) (herr.trans (h.faults.err_eq_none hf))
  tables := htab
  sequencer := hseq

/-- An error spoils no valid table: it spoils the one under synthesis, which is not valid (R177). -/
theorem State.Inv.raise {c : ErrCode} (hc : c ≠ .none) : (s.raise c).Inv where
  memory := by simpa using h.memory
  faults := ⟨iff_of_true rfl hc, fun _ => rfl⟩
  tables := by
    refine h.tables.of_sameTable fun ch hv => ?_
    by_cases hch : (s.raise c).chan ch = s.chan ch
    · exact State.sameTable_of_chan_eq hch
    · obtain ⟨f, hs, rfl⟩ | ⟨n, hs⟩ := State.raise_chan_changed hch
      · exact (s.raise_of_fold c f hs).2
      · rw [State.raise_tvalid, h.sequencer.tvalid_of_synth hs] at hv
        cases hv
  sequencer := State.seqConsistent_of_idle rfl

theorem State.Inv.applyReset : s.applyReset.Inv where
  memory := by simpa using h.memory
  faults := State.faultConsistent_of_clean rfl rfl
  tables ch _ hv := by simp [(s.applyReset_chan ch).2] at hv
  sequencer := State.seqConsistent_of_idle rfl

/-- A synthesis makes its table valid, with the entries of TROM (R102, R104), and hands over to its fold. -/
theorem State.Inv.synthStep {ch : Ch} {n : Option FoldState} (hs : s.seq = .synth ch n) : (s.synthStep ch n).Inv := by
  have hsame := s.synthStep_sameButTable ch n
  refine h.of_no_error (h.faults.fault_eq_false (by simp [hs])) hsame.fault hsame.err hsame.memory ?_ ?_
  · intro c i hv
    by_cases hc : c = ch
    · subst hc; exact s.synthStep_tram c n i
    · obtain ⟨htvalid, htram⟩ := State.sameTable_of_chan_eq (hsame.channels c hc)
      rw [htram i, h.tables c i (htvalid ▸ hv)]
  · cases n with
    | none => exact trivial
    | some f =>
      have hq := h.sequencer
      simp only [State.SeqConsistent, hs] at hq
      obtain ⟨-, rfl, -, hk, hrange, hcount⟩ := hq
      exact ⟨fun _ => s.synthStep_tvalid_same f.ch _, hrange, (hsame.count.trans hcount).trans hk.symm⟩

/-- A fold step leaves the tables, and moves to the next index with COUNT (R30), or is Idle. -/
theorem State.Inv.foldStep {f : FoldState} (hs : s.seq = .fold f) : (s.foldStep f).Inv := by
  have hf : s.fault = false := h.faults.fault_eq_false (by simp [hs])
  have htab : (s.foldStep f).TableConsistent := h.tables.of_sameTable fun ch _ => by
    by_cases hch : ch = f.ch
    · subst hch; exact State.foldStep_sameTable hs
    · exact State.sameTable_of_chan_eq (State.foldStep_chan_ne hs hch)
  have hm := s.foldStep_sameMemory f
  have hq := h.sequencer
  simp only [State.SeqConsistent, hs] at hq
  obtain ⟨hram, hrange, hcount⟩ := hq
  obtain ⟨-, he⟩ | ⟨-, -, he⟩ | ⟨-, -, -, -, he⟩ | ⟨hk, -, -, he⟩ := s.foldStep_cases f
  · rw [he] at htab hm ⊢
    exact h.of_no_error hf rfl rfl hm htab trivial
  · exact he ▸ h.raise (by decide)
  · rw [he] at htab hm ⊢
    exact h.of_no_error hf rfl rfl hm htab trivial
  · rw [he] at htab hm ⊢
    exact h.of_no_error hf (by simp [State.foldNext, State.foldByte]) (by simp [State.foldNext, State.foldByte]) hm htab
      ⟨fun hsrc => by simpa [State.foldNext, State.foldByte] using hram hsrc, hrange.next hk, rfl⟩

theorem State.Inv.seqStep : s.seqStep.Inv := by
  cases hs : s.seq with
  | idle => rwa [State.seqStep_of_idle hs]
  | synth ch n => rw [State.seqStep_of_synth hs]; exact h.synthStep hs
  | fold f => rw [State.seqStep_of_fold hs]; exact h.foldStep hs

end

section
variable {s : State} (h : s.Inv) (ha : s.Accepts)
include h ha

/-- SEED and UPDATE write a CRC on an idle block, of which the invariant says nothing. -/
theorem State.Inv.setCrc (ch : Ch) (v : BitVec ch.width) : (s.setCrc ch v).Inv :=
  h.of_no_error ha.1 (by simp) (by simp) (State.sameMemory_of_eq (by simp) (by simp))
    (h.tables.of_sameTable fun c _ => ⟨by simp, by simp⟩) (State.seqConsistent_of_idle (by simpa using ha.idle))

/-- A synthesis that starts makes its table invalid, ahead of a fold of its channel on TRAM or of nothing (R26, R143). -/
theorem State.Inv.startSynth (ch : Ch) {n : Option FoldState}
    (hn : ∀ f ∈ n, f.ch = ch ∧ f.src = .ram ∧ f.k = 0 ∧ f.InRange ∧ s.count = 0) : (s.startSynth ch n).Inv := by
  have hsame := s.startSynth_sameButTable ch n
  refine h.of_no_error ha.1 hsame.fault hsame.err hsame.memory (h.tables.of_sameTable fun c hv => ?_) ?_
  · refine State.sameTable_of_chan_eq (hsame.channels c ?_)
    rintro rfl
    simp at hv
  · cases n with
    | none => exact s.startSynth_tvalid ch none
    | some f =>
      obtain ⟨hch, hsrc, hk, hrange, hcount⟩ := hn f rfl
      exact ⟨s.startSynth_tvalid ch _, hch, hsrc, hk, hrange, hsame.count.trans hcount⟩

/-- An accepted CALC or CALCZ latches a fold in range, with COUNT 0 (R68, R142, R145). -/
theorem State.Inv.startFold (ch : Ch) (src : TSrc) (mode : FoldMode) : (s.startFold ch src mode).Inv := by
  have hcrc := h.setCrc ha ch ch.init
  have hacc := s.setCrc_accepts ch ch.init ha
  obtain ⟨-, he⟩ | ⟨hok, rfl, he⟩ | ⟨hok, rfl, he⟩ := s.startFold_cases ch src mode
  · exact he ▸ h.raise (by decide)
  · rw [he]
    exact hcrc.of_no_error hacc.1 rfl rfl (State.sameMemory_of_eq rfl rfl) hcrc.tables
      ⟨fun hsrc => (nomatch hsrc), State.latchFold_inRange (s.rangeBad_eq_false_iff.1 hok) ch .rom mode, rfl⟩
  · rw [he]
    have hbase := hcrc.of_no_error (t := { s.setCrc ch ch.init with count := 0, raced := [] }) hacc.1 rfl rfl
      (State.sameMemory_of_eq rfl rfl) hcrc.tables (State.seqConsistent_of_idle hacc.idle)
    refine hbase.startSynth hacc ch ?_
    rintro f ⟨⟩
    exact ⟨rfl, rfl, rfl, State.latchFold_inRange (s.rangeBad_eq_false_iff.1 hok) ch .ram mode, rfl⟩

theorem State.Inv.effect (i : Instr) : (effect i s).Inv := by
  cases i with
  | nop => exact h
  | seed ch => exact h.setCrc ha ch ch.init
  | synth ch => exact h.startSynth ha ch (by simp)
  | update ch src imm =>
    obtain he | he := effect_update_cases ch src imm s
    · exact he ▸ h.raise (by decide)
    · exact he ▸ h.setCrc ha ch _
  | calcLen ch src => exact h.startFold ha ch src .len
  | calcz ch src => exact h.startFold ha ch src .z

end

section
variable {s t : State} (h : s.Inv)
include h

theorem State.Inv.wr {off : Offset} {size : AccessSize} {v : Word} (hw : s.wr off size v = .next t) : t.Inv := by
  obtain ⟨-, rfl⟩ | ⟨-, -, rfl⟩ | ⟨-, -, rfl⟩ | ⟨ha, r, -, hr⟩ := State.wr_cases hw
  · exact h
  · exact h.raise (by decide)
  · exact h.raise (by decide)
  · obtain ⟨-, -, -, rfl⟩ | ⟨-, i, -, hx⟩ | ⟨-, rfl⟩ | ⟨-, rfl⟩ | ⟨-, -, -, rfl⟩ := State.writeReg_cases hr
    · exact h.raise (by decide)
    · obtain rfl : Machine.effect i s = t := by simpa [exec_of_accepts i s ha] using hx
      exact h.effect ha i
    · exact h.of_no_error ha.1 rfl rfl (State.sameMemory_of_eq rfl rfl) h.tables (State.seqConsistent_of_idle ha.idle)
    · exact h.of_no_error ha.1 rfl rfl (State.sameMemory_of_eq rfl rfl) h.tables (State.seqConsistent_of_idle ha.idle)
    · exact h.raise (by decide)

theorem State.Inv.rd (off : Offset) (size : AccessSize) : (s.rd off size).Inv := by
  have hreply (v : Option Word) : (s.reply v).Inv := h.of_sameBlock (s.sameBlock_reply v) (by simpa using h.memory)
  obtain ⟨v, he⟩ | ⟨-, -, he⟩ := s.rd_cases off size
  · exact he ▸ hreply v
  · exact he ▸ (hreply none).raise (by decide)

theorem State.Inv.handle {e : Event} (he : s.handle e = .next t) : t.Inv := by
  cases e with
  | rd off size => cases he; exact h.rd off size
  | wr off size v => exact h.wr he
  | poll => cases he; exact h.of_sameBlock s.sameBlock_pollOnce (s.pollOnce_sameMemory.1 ▸ h.memory)
  | tick => cases he; exact h.seqStep
  | reset => cases he; exact h.applyReset
  | memWrite a b => cases he; exact h.of_sameBlock (s.sameBlock_memWrite a b) (Memory.wf_store s.mem a b h.memory)

end

/-- Settles O47: each event and each turn of the sequencer keeps the invariant. -/
theorem stepKeepsInvariant : Obligations.StepKeepsInvariant := by
  intro s t h hstep
  obtain ⟨-, rfl⟩ | ⟨e, rest, -, he⟩ := step_cases hstep
  · exact h.seqStep
  · exact (h.of_sameBlock (s.sameBlock_inputs rest) h.memory).handle he

end Sys2Proof.Machine
end

section
/-! SUPPORT. The accumulator's commands NOP, SEED and UPDATE (41_accumulate.md): the arithmetic of an update and of the final
transform, width by width (R120, R121, R126), and what each command does to an idle block (R122 to R124). -/

namespace Sys2Proof

/-! ### The arithmetic, width by width -/

/-- At width 8 the index is the whole register XOR the byte: the shift right is by 0 (R120). -/
theorem Ch.updateIndex_w8 (r : BitVec 8) (b : Byte) : Ch.w8.updateIndex r b = r ^^^ b := by
  have hr : (r >>> 0).setWidth 8 = r := by rw [BitVec.ushiftRight_zero, BitVec.setWidth_eq]
  exact congrArg (· ^^^ b) hr

/-- At width 8 moving on by a byte leaves nothing of the register (R120). -/
theorem Ch.shift8_w8 (r : BitVec 8) : Ch.w8.shift8 r = 0#8 := BitVec.shiftLeft_eq_zero (Nat.le_refl 8)

theorem Ch.update_w8 (r : BitVec 8) (T : Byte → BitVec 8) (b : Byte) : Ch.w8.update r T b = T (r ^^^ b) := by
  rw [Ch.update_eq, Ch.updateIndex_w8, Ch.shift8_w8]
  exact BitVec.xor_zero

theorem Ch.fx_w32 (r : BitVec 32) : Ch.w32.fx r = r ^^^ 0xFFFFFFFF#32 := (BitVec.xor_allOnes (x := r)).symm

/-- Settles O8: width 8 by its own lemma, and at the other widths the branch that REFL selects. -/
theorem updateFormulaPerWidth : Obligations.UpdateFormulaPerWidth :=
  ⟨Ch.update_w8, fun _ _ _ => rfl, fun _ _ _ => rfl, fun _ _ _ => rfl⟩

/-- Settles O9: the complement is the XOR with all ones. -/
theorem finalTransformPerWidth : Obligations.FinalTransformPerWidth :=
  ⟨fun _ => rfl, fun _ => rfl, Ch.fx_w32, fun _ => rfl⟩

/-- Settles O10: TROM holds the synthesized entries, and an update with those is the bit-serial form. -/
theorem updateEqualsBitSerial : Obligations.UpdateEqualsBitSerial := Ch.update_eq_bitwise

end Sys2Proof

namespace Sys2Proof.Machine

/-! ### The commands -/

/-- What a write of CRC[ch] leaves: the rest of the block, memory, the read port and the host (R24). -/
theorem State.setCrc_frame (s : State) (ch : Ch) (v : BitVec ch.width) :
    let t := s.setCrc ch v
    s.SameTable t ch ∧ s.SameChannelsBut t ch ∧ s.SameAddrLen t ∧ t.count = s.count ∧ s.SameControl t ∧
      s.SameMemory t ∧ s.NoRead t ∧ s.SameHost t := by
  refine ⟨⟨?table, ?entries⟩, ?channels, ?addrLen, ?count, ?control, ?memory, ?port, ?host⟩
  case table => exact s.setCrc_tvalid ch ch v
  case entries => exact s.setCrc_tram ch ch v
  case channels => exact fun c hc => s.setCrc_chan_ne ch c v hc
  case addrLen => exact ⟨s.setCrc_addr ch v, s.setCrc_len ch v⟩
  case count => exact s.setCrc_count ch v
  case control => exact ⟨s.setCrc_fault ch v, s.setCrc_err ch v, s.setCrc_seq ch v⟩
  case memory => exact State.sameMemory_of_eq (s.setCrc_mem ch v) (s.setCrc_admitMap ch v)
  case port => exact s.setCrc_portReads ch v
  case host => exact ⟨s.setCrc_inputs ch v, s.setCrc_reads ch v, s.setCrc_draws ch v⟩

/-- An UPDATE whose table is there folds its byte (R124). -/
theorem effect_update_of_valid {ch : Ch} {src : TSrc} (imm : Byte) {s : State} (hv : src = .ram → s.tvalid ch = true) :
    effect (.update ch src imm) s = s.foldByte ch src imm :=
  if_neg fun ⟨hsrc, hnot⟩ => by simp [hv hsrc] at hnot

/-- An UPDATE on a TRAM that is not valid raises NOTABLE (R124, R202). -/
theorem effect_update_of_invalid {ch : Ch} (imm : Byte) {s : State} (hv : s.tvalid ch = false) :
    effect (.update ch .ram imm) s = s.raise .notable :=
  if_pos ⟨rfl, hv⟩

/-- Settles O13: NOP has no effect of its own. -/
theorem nopChangesNothing : Obligations.NopChangesNothing := exec_of_accepts .nop

/-- Settles O14: SEED is the write of INIT to CRC[ch], and the digest of no bytes is the final transform of INIT. -/
theorem seedLoadsInitialValue : Obligations.SeedLoadsInitialValue := by
  intro ch s ha
  have hcrc : (s.setCrc ch ch.init).crc ch = ch.init := s.setCrc_crc ch ch.init
  exact ⟨_, exec_of_accepts (.seed ch) s ha, hcrc, congrArg ch.fx hcrc, s.setCrc_frame ch ch.init⟩

/-- Settles O15: the byte is folded by a write of CRC[ch] alone. -/
theorem updateFoldsOneByte : Obligations.UpdateFoldsOneByte := by
  intro ch src imm s ha hv
  refine ⟨s.foldByte ch src imm, ?_, ?_, s.setCrc_frame ch _⟩
  · rw [exec_of_accepts _ s ha, effect_update_of_valid imm hv]
  · rw [State.foldByte, State.setCrc_crc]
    cases src <;> rfl

/-- Settles O16: an idle block raises NOTABLE precisely. -/
theorem updateWithoutTableRaisesNotable : Obligations.UpdateWithoutTableRaisesNotable := by
  intro ch imm s ha hv
  rw [exec_of_accepts _ s ha, effect_update_of_invalid imm hv, State.raise_of_idle s .notable ha.idle]

end Sys2Proof.Machine
end

section
/-! SUPPORT. The digest of a byte sequence (42_calculate.md R140, R141, R150) and the streaming form: SEED and then one UPDATE
for each byte (R123, R124, R199). -/

namespace Sys2Proof

/-- Settles O11: the fold of no bytes is INIT, which the final transform of each width takes to the listed value. -/
theorem emptyInputDigest : Obligations.EmptyInputDigest :=
  ⟨fun _ => rfl, rfl, rfl, by decide, rfl⟩

/-- `static_a` folds the bytes in order until its sentinel, the first 0x00 (R150). -/
theorem Ch.staticGo_eq_fold_beforeZero (ch : Ch) {bs : List Byte} (h : 0 ∈ bs) (r : BitVec ch.width) :
    ch.staticGo r bs = some (ch.fx (ch.foldBytes r (beforeZero bs))) := by
  induction bs generalizing r with
  | nil => cases h
  | cons b bs ih =>
    by_cases hb : b = 0
    · simp [Ch.staticGo, beforeZero, hb]
    · have hrest : 0 ∈ bs := (List.mem_cons.1 h).resolve_left (Ne.symm hb)
      simp only [Ch.staticGo, beforeZero, if_neg hb, Ch.foldBytes_cons]
      exact ih hrest _

/-- Settles O12: `static_a` by its loop, and `static_b` is the loop of `calculate`. -/
theorem staticEvaluatorsEqualCalculate : Obligations.StaticEvaluatorsEqualCalculate :=
  ⟨fun ch _ h => ch.staticGo_eq_fold_beforeZero h ch.init, fun _ _ => rfl⟩

end Sys2Proof

namespace Sys2Proof.Machine

/-! ### SEED and one UPDATE for each byte -/

theorem State.setCrc_setCrc (s : State) (ch : Ch) (v w : BitVec ch.width) :
    (s.setCrc ch v).setCrc ch w = s.setCrc ch w := by
  cases ch <;> rfl

theorem State.setCrc_crc_self (s : State) (ch : Ch) : s.setCrc ch (s.crc ch) = s := by cases ch <;> rfl

/-- A list of commands goes on from the effect of its first one where that is accepted. -/
theorem execAll_cons_of_accepts (i : Instr) (is : List Instr) {s : State} (h : s.Accepts) :
    execAll (i :: is) s = execAll is (effect i s) := by
  rw [execAll, exec_of_accepts i s h]

/-- Every table that a list of updates of channel `ch` reads is there (R107, R124). -/
def State.HasTables (s : State) (ch : Ch) (ps : List (TSrc × Byte)) : Prop :=
  s.TableConsistent ∧ ∀ p ∈ ps, p.1 = .ram → s.tvalid ch = true

theorem State.HasTables.setCrc {s : State} {ch : Ch} {ps : List (TSrc × Byte)} (h : s.HasTables ch ps)
    (v : BitVec ch.width) : (s.setCrc ch v).HasTables ch ps :=
  ⟨h.1.of_sameTable fun c _ => ⟨s.setCrc_tvalid ch c v, s.setCrc_tram ch c v⟩,
    fun p hp hsrc => (s.setCrc_tvalid ch ch v).trans (h.2 p hp hsrc)⟩

/-- An accepted UPDATE whose table is there folds its byte with the synthesized entries, from either table (R106, R124). -/
theorem State.HasTables.effect_update {s : State} {ch : Ch} {p : TSrc × Byte} {ps : List (TSrc × Byte)}
    (h : s.HasTables ch (p :: ps)) :
    effect (.update ch p.1 p.2) s = s.setCrc ch (ch.update (s.crc ch) ch.synthEntry p.2) := by
  obtain ⟨src, b⟩ := p
  have hv := h.2 _ List.mem_cons_self
  rw [effect_update_of_valid b hv, State.foldByte]
  cases src with
  | rom => rfl
  | ram => rw [h.1.table_eq (hv rfl)]

/-- Updates one after another fold their bytes into CRC[ch], in order, and do nothing else (R124, R140). -/
theorem execAll_updates {s : State} (ha : s.Accepts) {ch : Ch} {ps : List (TSrc × Byte)} (h : s.HasTables ch ps) :
    execAll (ps.map fun p => .update ch p.1 p.2) s =
      .next (s.setCrc ch (ch.foldBytes (s.crc ch) (ps.map (·.2)))) := by
  induction ps generalizing s with
  | nil => exact congrArg _ (s.setCrc_crc_self ch).symm
  | cons p ps ih =>
    have htail : s.HasTables ch ps := ⟨h.1, fun q hq => h.2 q (List.mem_cons_of_mem p hq)⟩
    rw [List.map_cons, execAll_cons_of_accepts _ _ ha, h.effect_update, ih (s.setCrc_accepts ch _ ha) (htail.setCrc _),
      State.setCrc_setCrc, State.setCrc_crc]
    rfl

/-- SEED and then one UPDATE for each byte leave the fold of the bytes from INIT (R123, R124, R140). -/
theorem execAll_seed_updates {s : State} (ha : s.Accepts) {ch : Ch} {ps : List (TSrc × Byte)} (h : s.HasTables ch ps) :
    execAll (.seed ch :: ps.map fun p => .update ch p.1 p.2) s =
      .next (s.setCrc ch (ch.foldBytes ch.init (ps.map (·.2)))) := by
  rw [execAll_cons_of_accepts _ _ ha, effect, execAll_updates (s.setCrc_accepts ch _ ha) (h.setCrc _),
    State.setCrc_setCrc, State.setCrc_crc]

/-- The digest after a write of CRC[ch] (R32). -/
@[simp] theorem State.setCrc_digest (s : State) (ch : Ch) (v : BitVec ch.width) : (s.setCrc ch v).digest ch = ch.fx v := by
  rw [State.digest, State.setCrc_crc]

/-- Settles O23: the commands come to one write of CRC[ch]. -/
theorem seedThenUpdatesComputeDigest : Obligations.SeedThenUpdatesComputeDigest := by
  intro ch bs s ha htab hv
  have htables : s.HasTables ch bs := ⟨htab, fun p hp hsrc => hv ⟨p.2, hsrc ▸ hp⟩⟩
  obtain ⟨htable, hchannels, haddrLen, hcount, -, hmem, -, -⟩ := s.setCrc_frame ch (ch.foldBytes ch.init (bs.map (·.2)))
  exact ⟨_, execAll_seed_updates ha htables, s.setCrc_digest ch _, hcount, (s.setCrc_accepts ch _ ha).2, htable, hchannels,
    haddrLen, hmem⟩

end Sys2Proof.Machine
end

section
/-! SUPPORT. The start and the single steps of the buffer commands CALC and CALCZ (42_calculate.md R142 to R147): what an
acceptance whose range does not wrap does, and one fold step of either mode. -/

namespace Sys2Proof.Machine

/-- Nothing is changed but channel `ch`, COUNT, the sequencer, the reads of the port and the list of raced bytes. -/
structure State.SameBeyond (s t : State) (ch : Ch) : Prop where
  channels : s.SameChannelsBut t ch
  addrLen : s.SameAddrLen t
  fault : t.fault = s.fault
  err : t.err = s.err
  memory : s.SameMemory t
  host : s.SameHost t

/-! ### Acceptance -/

section
variable {s : State} (hrange : s.RangeOk) (ch : Ch) (src : TSrc) (mode : FoldMode)
include hrange

theorem State.startFold_rom : s.startFold ch .rom mode =
    { s.setCrc ch ch.init with count := 0, raced := [], seq := .fold (s.latchFold ch .rom mode) } := by
  simp [State.startFold, s.rangeBad_eq_false_iff.2 hrange]

theorem State.startFold_ram : s.startFold ch .ram mode =
    ({ s.setCrc ch ch.init with count := 0, raced := [] } : State).startSynth ch (some (s.latchFold ch .ram mode)) := by
  simp [State.startFold, s.rangeBad_eq_false_iff.2 hrange]

/-- COUNT is cleared, no byte is read, and no table entry is written (R142, R145). -/
theorem State.startFold_start :
    (s.startFold ch src mode).count = 0 ∧ s.NoRead (s.startFold ch src mode) ∧ s.SameHost (s.startFold ch src mode) ∧
    (s.startFold ch src mode).err = s.err ∧ ∀ i, (s.startFold ch src mode).tram ch i = s.tram ch i := by
  cases src with
  | rom => rw [State.startFold_rom hrange]; simp [State.NoRead, State.SameHost]
  | ram => rw [State.startFold_ram hrange]; simp [State.NoRead, State.SameHost, State.startSynth]

/-- A CALC or CALCZ that starts a fold touches nothing beyond its channel, COUNT and the sequencer (R147). -/
theorem State.startFold_sameBeyond (hs : s.seq = .idle) : s.SameBeyond (s.startFold ch src mode) ch := by
  obtain ⟨-, hfault, -⟩ := State.startFold_frame hrange ch src mode
  obtain ⟨-, -, hhost, herr, -⟩ := State.startFold_start hrange ch src mode
  exact ⟨fun c hc => State.startFold_chan_ne hs src mode hc, s.startFold_addrLen ch src mode, hfault, herr,
    s.startFold_sameMemory ch src mode, hhost⟩

end

/-- CALC and CALCZ are the start of a fold in their mode (R142, R145). -/
theorem effect_eq_startFold {ch : Ch} {src : TSrc} {i : Instr} {mode : FoldMode}
    (hi : (i = .calcLen ch src ∧ mode = .len) ∨ (i = .calcz ch src ∧ mode = .z)) (s : State) :
    effect i s = s.startFold ch src mode := by
  obtain ⟨rfl, rfl⟩ | ⟨rfl, rfl⟩ := hi <;> rfl

/-- Settles O19: what both tables share, and then the sequencer and TVALID by the table that TSRC selects. -/
theorem bufferCommandsStart : Obligations.BufferCommandsStart := by
  intro ch src i mode s hi ha hrange
  obtain ⟨-, hfault, -, hcrc, -, -⟩ := State.startFold_frame hrange ch src mode
  obtain ⟨hcount, hport, hhost, herr, htram⟩ := State.startFold_start hrange ch src mode
  obtain ⟨hchannels, haddrLen, -, -, hmem, -⟩ := State.startFold_sameBeyond hrange ch src mode ha.idle
  refine ⟨s.startFold ch src mode, (exec_of_accepts i s ha).trans (congrArg _ (effect_eq_startFold hi s)), hcrc, hcount,
    ?busy, hfault.trans ha.1, herr, ?seq, ?tvalid, htram, hchannels, haddrLen, hmem, hport, hhost⟩
  all_goals
    cases src with
    | rom => rw [State.startFold_rom hrange]; simp [State.busy, State.latchFold]
    | ram => rw [State.startFold_ram hrange]; simp [State.busy, State.latchFold, State.startSynth]

/-- A buffer command on TROM leaves its channel's table alone, whether it starts a fold or raises RANGE (R147). -/
theorem State.startFold_rom_sameTable {s : State} (hs : s.seq = .idle) (ch : Ch) (mode : FoldMode) :
    s.SameTable (s.startFold ch .rom mode) ch := by
  obtain ⟨-, he⟩ | ⟨-, -, he⟩ | ⟨-, hsrc, -⟩ := s.startFold_cases ch .rom mode
  · exact he ▸ State.sameTable_of_chan_eq (State.raise_chan_of_idle .range hs ch)
  · exact he ▸ ⟨by simp, by simp⟩
  · cases hsrc

/-- Settles O27: the acceptance, the synthesis and the fold step by their frames. -/
theorem bufferCommandsTouchOneChannel : Obligations.BufferCommandsTouchOneChannel := by
  refine ⟨fun ch src i s t hi ha h => ?_, fun ch f s hs => ?_, fun f s hs => ?_⟩
  · obtain ⟨mode, hmode⟩ : ∃ mode, effect i s = s.startFold ch src mode := by
      obtain rfl | rfl := hi <;> exact ⟨_, rfl⟩
    obtain rfl : s.startFold ch src mode = t := by simpa [exec_of_accepts i s ha, hmode] using h
    refine ⟨fun c hc => State.startFold_chan_ne ha.idle src mode hc, s.startFold_addrLen ch src mode,
      s.startFold_sameMemory ch src mode, ?_⟩
    rintro rfl
    exact State.startFold_rom_sameTable ha.idle ch mode
  · have h := s.synthStep_sameButTable ch (some f)
    rw [State.seqStep_of_synth hs]
    exact ⟨h.channels, h.addrLen, h.memory, h.crc, h.count⟩
  · rw [State.seqStep_of_fold hs]
    exact ⟨fun c hc => State.foldStep_chan_ne hs hc, (s.foldStep_frame f).2, s.foldStep_sameMemory f,
      State.foldStep_sameTable hs⟩

/-! ### One fold step -/

theorem step_of_no_inputs {s : State} (h : s.inputs = []) : step s = .next s.seqStep := by
  rw [step, h]

theorem State.portByte_of_not_raced {s : State} {a : Addr} (h : a ∉ s.raced) : s.portByte a = s.memByte a := if_neg h

/-- The read of a byte that does not race draws nothing (R61, R70). -/
theorem State.issueRead_of_not_raced {s : State} {a : Addr} (h : a ∉ s.raced) :
    s.issueRead a = { s with portReads := s.portReads ++ [a] } := by
  simp [State.issueRead, State.drawn, h]

theorem State.foldStep_of_done (s : State) {f : FoldState} (hk : f.k = f.len) : s.foldStep f = { s with seq := .idle } :=
  if_pos hk

theorem State.foldStep_of_refused {s : State} {f : FoldState} (hk : f.k ≠ f.len) (hm : s.memAdmit f.address = false) :
    s.foldStep f = s.raise .bus := by
  simp [State.foldStep, hk, hm]

/-- The terminator's step is its read and the end of the fold, and nothing else (R146). -/
theorem State.foldStep_of_zero {s : State} {f : FoldState} (hk : f.k ≠ f.len) (hm : s.memAdmit f.address = true)
    (hr : f.address ∉ s.raced) (hz : f.mode = .z ∧ s.memByte f.address = 0) :
    s.foldStep f = { s with seq := .idle, portReads := s.portReads ++ [f.address] } := by
  rw [State.foldStep_of_admitted hk hm, State.portByte_of_not_raced hr, if_pos hz, State.issueRead_of_not_raced hr]

section
variable {s : State} {f : FoldState} (hin : s.inputs = []) (hs : s.seq = .fold f)
include hin hs

theorem step_of_fold : step s = .next (s.foldStep f) := by
  rw [step_of_no_inputs hin, State.seqStep_of_fold hs]

/-- A fold step at a byte the platform refuses raises BUS, and leaves the table of its channel alone (R144, R146, R177). -/
theorem step_of_refused (hk : f.k ≠ f.len) (hm : s.memAdmit f.address = false) :
    ∃ t, step s = .next t ∧ t.fault = true ∧ t.err = .bus ∧ t.seq = .idle ∧ s.SameTable t f.ch ∧
      s.SameChannelsBut t f.ch ∧ s.SameAddrLen t ∧ s.SameMemory t ∧ s.NoRead t := by
  obtain ⟨hchannels, htable⟩ := s.raise_of_fold .bus f hs
  exact ⟨s.raise .bus, (step_of_fold hin hs).trans (congrArg _ (State.foldStep_of_refused hk hm)), rfl, rfl, rfl, htable,
    hchannels, ⟨s.raise_addr .bus, s.raise_len .bus⟩, s.raise_sameMemory .bus, s.raise_portReads .bus⟩

end

section
variable {s : State} {f : FoldState} (hs : s.seq = .fold f) (hk : f.k ≠ f.len) (hm : s.memAdmit f.address = true)
  (hr : f.address ∉ s.raced)
include hs hk hm hr

/-- A fold step that reads a byte which does not race touches nothing beyond its channel, COUNT, the sequencer and the port
(R147). -/
theorem State.foldStep_sameBeyond : s.SameBeyond (s.foldStep f) f.ch := by
  obtain ⟨-, hdraws, hfault, herr, hinputs, hreads⟩ := State.foldStep_read_frame hk hm
  rw [if_neg hr] at hdraws
  exact ⟨fun c hc => State.foldStep_chan_ne hs hc, (s.foldStep_frame f).2, hfault, herr, s.foldStep_sameMemory f,
    hinputs, hreads, hdraws⟩

/-- A fold step folds and counts the stored byte, where that is no terminator, and moves on (R144, R146). -/
theorem step_of_fold_byte (hin : s.inputs = []) (hz : ¬(f.mode = .z ∧ s.memByte f.address = 0)) :
    ∃ t, step s = .next t ∧
      t.crc f.ch = f.ch.update (s.crc f.ch) (s.table f.ch f.src) (s.memByte f.address) ∧
      t.count = f.k + 1 ∧ t.seq = .fold { f with k := f.k + 1 } ∧
      t.portReads = s.portReads ++ [f.address] ∧ t.fault = s.fault ∧ t.err = s.err ∧
      s.SameTable t f.ch ∧ s.SameChannelsBut t f.ch ∧ s.SameAddrLen t ∧ s.SameMemory t ∧ s.SameHost t := by
  rw [← State.portByte_of_not_raced hr] at hz ⊢
  obtain ⟨hcrc, hcount, hseq⟩ := State.foldStep_of_not_terminator hk hm hz
  obtain ⟨hport, -⟩ := State.foldStep_read_frame hk hm
  have hsame := State.foldStep_sameBeyond hs hk hm hr
  exact ⟨_, step_of_fold hin hs, hcrc, hcount, hseq, hport, hsame.fault, hsame.err, State.foldStep_sameTable hs,
    hsame.channels, hsame.addrLen, hsame.memory, hsame.host⟩

end

/-- Settles O24: a fold in mode LEN has no terminator. -/
theorem calcFoldStep : Obligations.CalcFoldStep := by
  intro s f hin hs hmode
  refine ⟨fun hk => ?_, step_of_refused hin hs, fun hk hm hr => ?_⟩
  · rw [step_of_fold hin hs, s.foldStep_of_done hk]
  · exact step_of_fold_byte hs hk hm hr hin (by simp [hmode])

/-- Settles O25: as O24, with the two outcomes of the terminator's test. -/
theorem calczFoldStep : Obligations.CalczFoldStep := by
  intro s f hin hs hmode
  refine ⟨fun hk => ?_, step_of_refused hin hs, fun hk hm hr hb => ?_, fun hk hm hr hb => ?_⟩
  · rw [step_of_fold hin hs, s.foldStep_of_done hk]
  · exact (step_of_fold hin hs).trans (congrArg _ (State.foldStep_of_zero hk hm hr ⟨hmode, hb⟩))
  · exact step_of_fold_byte hs hk hm hr hin fun h => hb h.2

end Sys2Proof.Machine
end

section
/-! SUPPORT. Whole runs of CALC and CALCZ that nothing disturbs (42_calculate.md R144, R146, R151, R152): how long the block
is BUSY, what the fold has done step by step, and what the command leaves when it is complete. -/

namespace Sys2Proof.Machine

/-! ### Runs through busy states -/

theorem run_add_of_run {s t : State} {n : Nat} (h : run n s = .next t) (k : Nat) : run (n + k) s = run k t := by
  induction n generalizing s with
  | zero => cases h; rw [Nat.zero_add]
  | succ n ih =>
    rw [Nat.succ_add, run]
    rw [run] at h
    cases hs : step s <;> rw [hs] at h
    case next v => exact ih h
    all_goals cases h

/-- The run of `n` steps from `s` ends in `u`, and the block is BUSY before each of them (R34, R206). -/
def State.BusyUntil (s : State) (n : Nat) (u : State) : Prop :=
  (∀ m, m < n → ∃ w, run m s = .next w ∧ w.busy = true) ∧ run n s = .next u

theorem State.BusyUntil.refl (s : State) : s.BusyUntil 0 s := ⟨fun _ hm => absurd hm (Nat.not_lt_zero _), rfl⟩

theorem State.BusyUntil.trans {s t u : State} {m n : Nat} (h : s.BusyUntil m t) (h' : t.BusyUntil n u) :
    s.BusyUntil (m + n) u := by
  refine ⟨fun k hk => ?_, (run_add_of_run h.2 n).trans h'.2⟩
  obtain hlt | ⟨j, rfl⟩ := Nat.lt_or_ge k m |>.imp_right Nat.exists_eq_add_of_le
  · exact h.1 k hlt
  · rw [run_add_of_run h.2 j]
    exact h'.1 j (Nat.lt_of_add_lt_add_left hk)

theorem State.BusyUntil.single {s t : State} (hs : s.seq ≠ .idle) (h : step s = .next t) : s.BusyUntil 1 t := by
  refine ⟨fun m hm => ⟨s, ?_, s.busy_eq_true_iff.2 hs⟩, ?_⟩
  · rw [Nat.lt_one_iff.1 hm]; rfl
  · rw [run, h]; rfl

theorem State.BusyUntil.head {s t u : State} {n : Nat} (hs : s.BusyUntil 1 t) (h : t.BusyUntil n u) :
    s.BusyUntil (n + 1) u :=
  Nat.add_comm 1 n ▸ hs.trans h

/-- An idle block with nothing waiting keeps its state (R187). -/
theorem run_of_idle {s : State} (hs : s.seq = .idle) (hin : s.inputs = []) (n : Nat) : run n s = .next s := by
  induction n with
  | zero => rfl
  | succ n ih => rw [run, step_of_no_inputs hin, State.seqStep_of_idle hs]; exact ih

/-- Where a run has ended idle with nothing waiting, every run from the same state that is not BUSY has that end. -/
theorem State.BusyUntil.eq_of_run {s u w : State} {n k : Nat} (h : s.BusyUntil n u) (hu : u.seq = .idle)
    (hin : u.inputs = []) (hw : run k s = .next w) (hb : w.busy = false) : w = u := by
  obtain hlt | ⟨j, rfl⟩ := Nat.lt_or_ge k n |>.imp_right Nat.exists_eq_add_of_le
  · obtain ⟨v, hv, hbusy⟩ := h.1 k hlt
    cases hv.symm.trans hw
    simp [hb] at hbusy
  · rw [run_add_of_run h.2, run_of_idle hu hin] at hw
    cases hw
    rfl

/-! ### A fold that nothing disturbs -/

/-- The bytes the fold `f` takes of those it has still to read, as they stand now (R144, R146). -/
def State.bytesTaken (s : State) (f : FoldState) : List Byte := f.mode.taken (f.pendingAddrs.map s.memByte)

section
variable (s : State) {f : FoldState}

theorem State.bytesTaken_of_done (hk : f.k = f.len) : s.bytesTaken f = [] := by
  simp [State.bytesTaken, FoldState.pendingAddrs_of_done hk]

variable {s} (hk : f.k ≠ f.len)
include hk

theorem State.bytesTaken_of_terminator (hz : f.mode = .z ∧ s.memByte f.address = 0) : s.bytesTaken f = [] := by
  rw [State.bytesTaken, FoldState.pendingAddrs_of_ne hk, List.map_cons, FoldMode.taken_of_terminator _ hz]

theorem State.bytesTaken_of_byte (hz : ¬(f.mode = .z ∧ s.memByte f.address = 0)) :
    s.bytesTaken f = s.memByte f.address :: s.bytesTaken { f with k := f.k + 1 } := by
  rw [State.bytesTaken, FoldState.pendingAddrs_of_ne hk, List.map_cons, FoldMode.taken_of_not_terminator _ hz]
  rfl

end

theorem State.bytesTaken_of_sameMemory {s t : State} (h : s.SameMemory t) (f : FoldState) :
    t.bytesTaken f = s.bytesTaken f := by
  rw [State.bytesTaken, State.memByte_of_sameMemory h, State.bytesTaken]

/-- The fold `f` runs, with no event waiting and no byte written under it (R70), on a table that holds the synthesized entries
(R104, R106), and COUNT is its index (R30). -/
structure State.Folds (s : State) (f : FoldState) : Prop where
  seq : s.seq = .fold f
  inputs : s.inputs = []
  raced : s.raced = []
  table : s.table f.ch f.src = f.ch.synthEntry
  count : s.count = f.k

/-- Between `s` and `t` the bytes `bs` have been folded into CRC[ch] and counted, the port has read the bytes at `as`, and
TVALID[ch] and everything beyond the channel is as it was. -/
structure State.Folded (s t : State) (ch : Ch) (bs : List Byte) (as : List Addr) : Prop where
  crc : t.crc ch = ch.foldBytes (s.crc ch) bs
  count : t.count = s.count + BitVec.ofNat 64 bs.length
  port : t.portReads = s.portReads ++ as
  tvalid : t.tvalid ch = s.tvalid ch
  beyond : s.SameBeyond t ch

theorem State.SameBeyond.trans {s t u : State} {ch : Ch} (h : s.SameBeyond t ch) (h' : t.SameBeyond u ch) :
    s.SameBeyond u ch where
  channels c hc := (h'.channels c hc).trans (h.channels c hc)
  addrLen := ⟨h'.addrLen.1.trans h.addrLen.1, h'.addrLen.2.trans h.addrLen.2⟩
  fault := h'.fault.trans h.fault
  err := h'.err.trans h.err
  memory := h.memory.trans h'.memory
  host := ⟨h'.host.1.trans h.host.1, h'.host.2.1.trans h.host.2.1, h'.host.2.2.trans h.host.2.2⟩

theorem State.Folded.trans {s t u : State} {ch : Ch} {bs cs : List Byte} {as ds : List Addr} (h : s.Folded t ch bs as)
    (h' : t.Folded u ch cs ds) : s.Folded u ch (bs ++ cs) (as ++ ds) where
  crc := by rw [h'.crc, h.crc, Ch.foldBytes_append]
  count := by rw [h'.count, h.count, List.length_append, BitVec.ofNat_add, BitVec.add_assoc]
  port := by rw [h'.port, h.port, List.append_assoc]
  tvalid := h'.tvalid.trans h.tvalid
  beyond := h.beyond.trans h'.beyond

/-- At its bound a fold ends (R144). -/
theorem State.folded_of_done (s : State) {f : FoldState} (hk : f.k = f.len) : s.Folded (s.foldStep f) f.ch [] [] := by
  rw [s.foldStep_of_done hk]
  exact ⟨by simp, by simp, by simp, by simp,
    ⟨fun c _ => by simp, ⟨rfl, rfl⟩, rfl, rfl, State.sameMemory_of_eq rfl rfl, rfl, rfl, rfl⟩⟩

section
variable {s : State} {f : FoldState} (h : s.Folds f)
include h

theorem State.Folds.busyUntil_foldStep : s.BusyUntil 1 (s.foldStep f) :=
  .single (by simp [h.seq]) (step_of_fold h.inputs h.seq)

section
variable (hk : f.k ≠ f.len) (hm : s.memAdmit f.address = true)
include hk hm

/-- At the terminator a CALCZ reads a byte and ends (R146). -/
theorem State.Folds.folded_of_terminator (hz : f.mode = .z ∧ s.memByte f.address = 0) :
    (s.foldStep f).seq = .idle ∧ s.Folded (s.foldStep f) f.ch [] [f.address] := by
  have hr : f.address ∉ s.raced := by simp [h.raced]
  have hsame := State.foldStep_sameBeyond h.seq hk hm hr
  rw [← State.portByte_of_not_raced hr] at hz
  obtain ⟨hidle, hcrc, hcount⟩ := State.foldStep_of_terminator hk hm hz
  exact ⟨hidle, hcrc, by simpa using hcount, (State.foldStep_read_frame hk hm).1, s.foldStep_tvalid f f.ch, hsame⟩

/-- At every other byte a fold takes that byte and goes on at the next one (R144, R146). -/
theorem State.Folds.folded_of_byte (hz : ¬(f.mode = .z ∧ s.memByte f.address = 0)) :
    (s.foldStep f).Folds { f with k := f.k + 1 } ∧
      s.Folded (s.foldStep f) f.ch [s.memByte f.address] [f.address] := by
  have hr : f.address ∉ s.raced := by simp [h.raced]
  have hsame := State.foldStep_sameBeyond h.seq hk hm hr
  rw [← State.portByte_of_not_raced hr] at hz ⊢
  obtain ⟨hcrc, hcount, hseq⟩ := State.foldStep_of_not_terminator hk hm hz
  rw [h.table] at hcrc
  refine ⟨⟨hseq, hsame.host.1.trans h.inputs, ?_, ?_, hcount⟩, hcrc, ?_, (State.foldStep_read_frame hk hm).1,
    s.foldStep_tvalid f f.ch, hsame⟩
  · rw [← State.seqStep_of_fold h.seq, s.seqStep_raced, h.raced]
  · exact (State.table_of_sameTable (State.foldStep_sameTable h.seq) f.src).trans h.table
  · rw [hcount, h.count]; rfl

end

/-- A fold whose bytes are admitted, up to the terminator if it meets one, takes its bytes and ends, one step for each byte
and one for its end (R144, R146, R206). -/
theorem State.Folds.completes
    (hadm : ∀ a ∈ f.pendingAddrs.take ((s.bytesTaken f).length + 1), s.memAdmit a = true) :
    ∃ u, s.BusyUntil ((s.bytesTaken f).length + 1) u ∧ u.seq = .idle ∧
      s.Folded u f.ch (s.bytesTaken f) (f.pendingAddrs.take ((s.bytesTaken f).length + 1)) := by
  induction hp : f.pendingAddrs generalizing s f with
  | nil =>
    have hk : f.k = f.len := by
      by_contra hk
      simp [FoldState.pendingAddrs_of_ne hk] at hp
    rw [s.bytesTaken_of_done hk]
    exact ⟨_, h.busyUntil_foldStep, by rw [s.foldStep_of_done hk], s.folded_of_done hk⟩
  | cons a as ih =>
    have hk : f.k ≠ f.len := fun hk => by simp [FoldState.pendingAddrs_of_done hk] at hp
    obtain ⟨rfl, hnext⟩ := List.cons.inj ((FoldState.pendingAddrs_of_ne hk).symm.trans hp)
    rw [hp] at hadm
    have hm : s.memAdmit f.address = true := hadm _ List.mem_cons_self
    by_cases hz : f.mode = .z ∧ s.memByte f.address = 0
    · obtain ⟨hidle, hfolded⟩ := h.folded_of_terminator hk hm hz
      rw [State.bytesTaken_of_terminator hk hz]
      exact ⟨_, h.busyUntil_foldStep, hidle, hfolded⟩
    · obtain ⟨hfolds, hfolded⟩ := h.folded_of_byte hk hm hz
      have hmem := hfolded.beyond.memory
      rw [State.bytesTaken_of_byte hk hz, ← State.bytesTaken_of_sameMemory hmem] at hadm ⊢
      have hadm' := fun b hb => (hmem.2.2 b).2.trans (hadm b (List.mem_cons_of_mem _ hb))
      obtain ⟨u, hbusy, hidle, hrest⟩ := ih hfolds (hnext ▸ hadm') hnext
      exact ⟨u, h.busyUntil_foldStep.head hbusy, hidle, hfolded.trans hrest⟩

end

end Sys2Proof.Machine
end

section
/-! SUPPORT. What an accepted CALC or CALCZ comes to when nothing disturbs it (42_calculate.md R142 to R146), and from it the
equality of the strategies (R151) and of any two runs over equal bytes (R152). -/

namespace Sys2Proof.Machine

/-! ### From the acceptance to the end -/

theorem State.AdmitsFirst.of_mem_take {s : State} {n : Nat} (h : s.AdmitsFirst (min n s.len.toNat)) {a : Addr}
    (ha : a ∈ s.bufferAddrs.take n) : s.memAdmit a = true := by
  rw [State.bufferAddrs, ← List.map_take, List.take_range] at ha
  obtain ⟨k, hk, rfl⟩ := List.mem_map.1 ha
  exact h k (List.mem_range.1 hk)

@[simp] theorem State.bufferAddrs_length (s : State) : s.bufferAddrs.length = s.len.toNat := by
  simp [State.bufferAddrs]

@[simp] theorem State.buffer_length (s : State) : s.buffer.length = s.len.toNat := by
  simp [State.buffer]

/-- A command on channel `ch` that took the bytes `bs` of the buffer of `s` is complete: the fold of them from INIT is in
CRC[ch] and their number in COUNT, and the port has read them and the terminator after them, if there is one. -/
structure State.Completed (s u : State) (ch : Ch) (src : TSrc) (bs : List Byte) : Prop where
  seq : u.seq = .idle
  crc : u.crc ch = ch.foldBytes ch.init bs
  count : u.count = BitVec.ofNat 64 bs.length
  port : u.portReads = s.portReads ++ s.bufferAddrs.take (bs.length + 1)
  tvalid : src = .ram → u.tvalid ch = true
  beyond : s.SameBeyond u ch

theorem State.Completed.digest {s u : State} {ch : Ch} {src : TSrc} {bs : List Byte} (h : s.Completed u ch src bs) :
    u.digest ch = ch.calculate bs := by
  rw [State.digest, h.crc, Ch.calculate]

theorem State.Completed.busy {s u : State} {ch : Ch} {src : TSrc} {bs : List Byte} (h : s.Completed u ch src bs) :
    u.busy = false := u.busy_eq_false_iff.2 h.seq

/-- What a fold that is about to read its first byte finds, whether or not its table was synthesized first. -/
structure State.ReadyToFold (s t : State) (ch : Ch) (src : TSrc) (mode : FoldMode) : Prop where
  folds : t.Folds (s.latchFold ch src mode)
  crc : t.crc ch = ch.init
  port : s.NoRead t
  tvalid : src = .ram → t.tvalid ch = true
  beyond : s.SameBeyond t ch

theorem State.SameButTable.sameBeyond {s t : State} {ch : Ch} (h : s.SameButTable t ch) : s.SameBeyond t ch :=
  ⟨h.channels, h.addrLen, h.fault, h.err, h.memory, h.host⟩

section
variable {s : State} (ha : s.Accepts) (hin : s.inputs = []) (hrange : s.RangeOk) (ch : Ch) (src : TSrc) (mode : FoldMode)
include ha hin hrange

/-- A command whose range does not wrap comes to its fold, after one synthesis step on TRAM and at once on TROM (R142, R143,
R145). -/
theorem State.startFold_readyToFold :
    ∃ t, (s.startFold ch src mode).BusyUntil (synthSteps src) t ∧ s.ReadyToFold t ch src mode := by
  obtain ⟨-, -, hraced, hcrc, hon, hinputs⟩ := State.startFold_frame hrange ch src mode
  obtain ⟨hcount, hport, -, -, -⟩ := State.startFold_start hrange ch src mode
  have hbeyond := State.startFold_sameBeyond hrange ch src mode ha.idle
  set t := s.startFold ch src mode with ht
  cases src with
  | rom =>
    have hseq : t.seq = .fold (s.latchFold ch .rom mode) := by rw [ht, State.startFold_rom hrange]
    exact ⟨t, .refl t, ⟨hseq, hinputs.trans hin, hraced, rfl, hcount⟩, hcrc, hport, nofun, hbeyond⟩
  | ram =>
    have hseq : t.seq = .synth ch (some (s.latchFold ch .ram mode)) := by rw [ht, State.startFold_ram hrange]; rfl
    have hstep : step t = .next (t.synthStep ch (some (s.latchFold ch .ram mode))) := by
      rw [step_of_no_inputs (hinputs.trans hin), State.seqStep_of_synth hseq]
    have hsame := t.synthStep_sameButTable ch (some (s.latchFold ch .ram mode))
    refine ⟨_, .single (by simp [hseq]) hstep, ⟨rfl, ?_, ?_, ?_, ?_⟩, hsame.crc.trans hcrc, Eq.trans hsame.port hport,
      fun _ => t.synthStep_tvalid_same ch _, hbeyond.trans hsame.sameBeyond⟩
    · exact (hsame.host.1.trans hinputs).trans hin
    · rw [← State.seqStep_of_synth hseq, t.seqStep_raced, hraced]
    · exact funext (t.synthStep_tram ch _)
    · exact hsame.count.trans hcount

/-- A command over bytes that may be read, up to the terminator if it meets one, is complete after one step for each byte
it takes, one for its end, and the synthesis where TSRC selects TRAM (R144, R146, R206). -/
theorem State.startFold_completes (hadm : s.AdmitsFirst (min ((mode.taken s.buffer).length + 1) s.len.toNat)) :
    ∃ u, (s.startFold ch src mode).BusyUntil ((mode.taken s.buffer).length + 1 + synthSteps src) u ∧
      s.Completed u ch src (mode.taken s.buffer) := by
  obtain ⟨t, hsynth, hready⟩ := State.startFold_readyToFold ha hin hrange ch src mode
  have hmem := hready.beyond.memory
  have htaken : t.bytesTaken (s.latchFold ch src mode) = mode.taken s.buffer := by
    rw [State.bytesTaken, State.latchFold_pendingAddrs, State.memByte_of_sameMemory hmem]; rfl
  have hend := hready.folds.completes
  rw [htaken, State.latchFold_pendingAddrs] at hend
  obtain ⟨u, hfold, hidle, hfolded⟩ := hend fun a h => (hmem.2.2 a).2.trans (hadm.of_mem_take h)
  refine ⟨u, Nat.add_comm (synthSteps src) _ ▸ hsynth.trans hfold, hidle, ?_, ?_, ?_, ?_, hready.beyond.trans hfolded.beyond⟩
  · exact hfolded.crc.trans (congrArg (ch.foldBytes · _) hready.crc)
  · rw [hfolded.count, hready.folds.count]; exact BitVec.zero_add _
  · rw [hfolded.port, hready.port]
  · exact fun hsrc => hfolded.tvalid.trans (hready.tvalid hsrc)

/-- The same of the command as it is written to CMD. -/
theorem exec_completes {i : Instr} (hi : (i = .calcLen ch src ∧ mode = .len) ∨ (i = .calcz ch src ∧ mode = .z))
    (hadm : s.AdmitsFirst (min ((mode.taken s.buffer).length + 1) s.len.toNat)) :
    ∃ t u, exec i s = .next t ∧ t.BusyUntil ((mode.taken s.buffer).length + 1 + synthSteps src) u ∧
      s.Completed u ch src (mode.taken s.buffer) := by
  obtain ⟨u, hbusy, hcomp⟩ := State.startFold_completes ha hin hrange ch src mode hadm
  exact ⟨_, u, (exec_of_accepts i s ha).trans (congrArg _ (effect_eq_startFold hi s)), hbusy, hcomp⟩

end

/-- Settles O29: CALC takes the whole buffer. -/
theorem calcComputesDigest : Obligations.CalcComputesDigest := by
  intro ch src s ha hin hrange hadm
  obtain ⟨t, u, hexec, ⟨hbusy, hrun⟩, hcomp⟩ := exec_completes ha hin hrange ch src .len (.inl ⟨rfl, rfl⟩)
    (by simpa [FoldMode.taken] using hadm)
  simp only [FoldMode.taken, State.buffer_length] at hbusy hrun hcomp
  have hbeyond := hcomp.beyond
  refine ⟨t, u, hexec, hbusy, hrun, hcomp.busy, hbeyond.fault.trans ha.1, hcomp.crc, hcomp.digest, ?_, ?_, hcomp.tvalid,
    hbeyond.channels, hbeyond.addrLen, hbeyond.memory, hbeyond.host⟩
  · simpa using hcomp.count
  · simpa [List.take_of_length_le] using hcomp.port

/-- Settles O30: CALCZ takes the bytes before the first 0x00. -/
theorem calczComputesDigest : Obligations.CalczComputesDigest := by
  rintro ch src s _ ha hin hrange rfl hadm
  obtain ⟨t, u, hexec, ⟨hbusy, hrun⟩, hcomp⟩ := exec_completes ha hin hrange ch src .z (.inr ⟨rfl, rfl⟩) hadm
  have hbeyond := hcomp.beyond
  exact ⟨t, u, hexec, hbusy, hrun, hcomp.busy, hbeyond.fault.trans ha.1, hcomp.crc, hcomp.digest, hcomp.count, hcomp.port,
    hcomp.tvalid, hbeyond.channels, hbeyond.addrLen, hbeyond.memory, hbeyond.host⟩

/-! ### Equal bytes, equal digests -/

theorem State.AdmitsFirst.mono {s : State} {m n : Nat} (h : s.AdmitsFirst n) (hle : m ≤ n) : s.AdmitsFirst m :=
  fun k hk => h k (hk.trans_le hle)

section
variable {s : State} (ha : s.Accepts) (hin : s.inputs = []) (hrange : s.RangeOk) (hadm : s.AdmitsFirst s.len.toNat)
  {i : Instr} {ch : Ch} {src : TSrc} {mode : FoldMode}
  (hi : (i = .calcLen ch src ∧ mode = .len) ∨ (i = .calcz ch src ∧ mode = .z))
include ha hin hrange hadm hi

/-- A buffer command over an admitted buffer ends without an error, with the digest of the bytes it takes (R144, R146). -/
theorem exec_ends_with_digest {bs : List Byte} (hbs : mode.taken s.buffer = bs) :
    ∃ n t u, exec i s = .next t ∧ run n t = .next u ∧ u.busy = false ∧ u.fault = false ∧
      u.digest ch = ch.calculate bs := by
  obtain ⟨t, u, hexec, hbusy, hcomp⟩ := exec_completes ha hin hrange ch src mode hi (hadm.mono (Nat.min_le_right _ _))
  exact ⟨_, t, u, hexec, hbusy.2, hcomp.busy, hcomp.beyond.fault.trans ha.1, hbs ▸ hcomp.digest⟩

/-- A run of an accepted CALC or CALCZ that has come to its end has come to the command's completion, whatever the number of
its steps. -/
theorem completed_of_run {t u : State} {n : Nat} (hexec : exec i s = .next t) (hrun : run n t = .next u)
    (hidle : u.busy = false) : s.Completed u ch src (mode.taken s.buffer) := by
  obtain ⟨t', u', hexec', hbusy, hcomp⟩ := exec_completes ha hin hrange ch src mode hi (hadm.mono (Nat.min_le_right _ _))
  cases hexec.symm.trans hexec'
  exact hbusy.eq_of_run hcomp.seq (hcomp.beyond.host.1.trans hin) hrun hidle ▸ hcomp

end

/-- Settles O32: both buffer commands end with the digest of the bytes they take, and the updates come to one write of
CRC[ch]. -/
theorem strategiesAgree : Obligations.StrategiesAgree := by
  intro ch s bs ha hin hrange hadm htab
  refine ⟨fun src hbuf => exec_ends_with_digest ha hin hrange hadm (.inl ⟨rfl, rfl⟩) hbuf,
    fun src hbuf hzero => exec_ends_with_digest ha hin hrange hadm (.inr ⟨rfl, rfl⟩) ?_, fun src hv => ?_⟩
  · obtain hbuf | ⟨rest, hbuf⟩ := hbuf
    · exact hbuf ▸ beforeZero_of_not_mem (hbuf ▸ hzero)
    · exact hbuf ▸ beforeZero_append_zero rest hzero
  · have htables : s.HasTables ch (bs.map (src, ·)) := ⟨htab, by simpa using fun _ _ => hv⟩
    have hexec := execAll_seed_updates ha htables
    simp only [List.map_map, Function.comp_def, List.map_id'] at hexec
    exact ⟨_, hexec, s.setCrc_digest ch _⟩

/-- Settles O33: both runs come to the completion of their command, and those of equal bytes agree. -/
theorem digestDependsOnBytesOnly : Obligations.DigestDependsOnBytesOnly := by
  intro ch src src' s s' t t' u u' n n' ha ha' hin hin' hrange hrange' hadm hadm' h hrun hidle hrun' hidle'
  obtain ⟨bs, hcomp, hcomp'⟩ : ∃ bs, s.Completed u ch src bs ∧ s'.Completed u' ch src' bs := by
    obtain ⟨hbytes, hexec, hexec'⟩ | ⟨hbytes, hexec, hexec'⟩ := h
    · exact ⟨_, completed_of_run ha hin hrange hadm (.inl ⟨rfl, rfl⟩) hexec hrun hidle,
        hbytes ▸ completed_of_run ha' hin' hrange' hadm' (.inl ⟨rfl, rfl⟩) hexec' hrun' hidle'⟩
    · have hbytes : FoldMode.z.taken s.buffer = FoldMode.z.taken s'.buffer := hbytes
      exact ⟨_, completed_of_run ha hin hrange hadm (.inr ⟨rfl, rfl⟩) hexec hrun hidle,
        hbytes ▸ completed_of_run ha' hin' hrange' hadm' (.inr ⟨rfl, rfl⟩) hexec' hrun' hidle'⟩
  rw [hcomp.digest, hcomp.crc, hcomp.count, hcomp'.digest, hcomp'.crc, hcomp'.count]
  exact ⟨rfl, rfl, rfl⟩

end Sys2Proof.Machine
end

section
/-! SUPPORT. The host's access to the registers (43_host_access.md): the map of the window and the valid transactions
(R161), what RD returns (R162), and what WR does by the state of the block and by the register (R163). -/

namespace Sys2Proof.Machine

/-! ### The register window -/

/-- The offset of a table entry is the sum of its fields at their places (R39). -/
theorem offsetOf_tbl_toNat (ch : Ch) (src : TSrc) (i : Byte) :
    (offsetOf (.tbl ch src i)).toNat = 0x1000 + 0x1000 * ch.index.toNat + 0x800 * src.bit.toNat + 8 * i.toNat := by
  have hi := i.isLt
  cases ch <;> cases src <;> simp [offsetOf, Ch.index, TSrc.bit] <;> omega

/-- The bits of the offset of a table entry: it is 8-aligned, and channel, table and index each stand at their place. -/
theorem offsetOf_tbl_bits (ch : Ch) (src : TSrc) (i : Byte) :
    (offsetOf (.tbl ch src i)).extractLsb' 0 3 = 0 ∧
    (offsetOf (.tbl ch src i) - 0x1000).extractLsb' 12 2 = ch.index ∧
    (offsetOf (.tbl ch src i)).extractLsb' 11 1 = src.bit ∧ (offsetOf (.tbl ch src i)).extractLsb' 3 8 = i := by
  have hi := i.isLt
  have hch := ch.index.isLt
  have hsrc := src.bit.isLt
  simp only [← BitVec.toNat_inj, BitVec.extractLsb'_toNat, BitVec.toNat_sub, offsetOf_tbl_toNat,
    Nat.shiftRight_eq_div_pow]
  refine ⟨?_, ?_, ?_, ?_⟩ <;> simp <;> omega

/-- An 8-aligned offset of the table window is the entry that its bits select (R39). -/
theorem regAt_of_tableWindow {off : Offset} (h8 : off.extractLsb' 0 3 = 0) (hlo : 0x1000 ≤ off) (hhi : off ≤ 0x4FF8) :
    regAt off = some (.tbl (Ch.ofIndex ((off - 0x1000).extractLsb' 12 2)) (TSrc.ofBit (off.extractLsb' 11 1))
      (off.extractLsb' 3 8)) := by
  rw [regAt, if_neg (not_not.2 h8)]
  iterate 7 rw [if_neg (by bv_omega)]
  exact if_pos ⟨hlo, hhi⟩

/-- Every register stands at its own offset (R38, R39). -/
theorem regAt_offsetOf (r : Reg) : regAt (offsetOf r) = some r := by
  cases r with
  | cmd | status | addr | len | count => rfl
  | crc ch => cases ch <;> rfl
  | digest ch => cases ch <;> rfl
  | tbl ch src i =>
    have hoff := offsetOf_tbl_toNat ch src i
    have hi := i.isLt
    have hch := ch.index.isLt
    have hsrc := src.bit.isLt
    obtain ⟨h8, hindex, hbit, hentry⟩ := offsetOf_tbl_bits ch src i
    rw [regAt_of_tableWindow h8 (by bv_omega) (by bv_omega), hindex, hbit, hentry, Ch.ofIndex_index, TSrc.ofBit_bit]

theorem offset_aligned_iff (off : Offset) : off.extractLsb' 0 3 = 0 ↔ off.toNat % 8 = 0 := by
  simp [← BitVec.toNat_inj, BitVec.extractLsb'_toNat]

/-- A chain of conditions answers when one of them holds. -/
theorem exists_ite_some_iff {α : Type} {p : Prop} [Decidable p] {a : α} {o : Option α} :
    (∃ r, (if p then some a else o) = some r) ↔ p ∨ ∃ r, o = some r := by
  by_cases h : p <;> simp [h]

/-- The offsets that map to a register: the 8-aligned ones of the listed ranges (R161). -/
theorem exists_regAt_iff (off : Offset) : (∃ r, regAt off = some r) ↔
    off.toNat % 8 = 0 ∧ (off.toNat ∈ [0x00, 0x08, 0x10, 0x18, 0x20] ∨ (0x40 ≤ off.toNat ∧ off.toNat ≤ 0x78)
      ∨ (0x1000 ≤ off.toNat ∧ off.toNat ≤ 0x4FF8)) := by
  by_cases h8 : off.extractLsb' 0 3 = 0
  · have halign := (offset_aligned_iff off).1 h8
    simp [regAt, h8, exists_ite_some_iff, ← BitVec.toNat_inj, BitVec.le_def]
    omega
  · have hnone : regAt off = none := if_pos h8
    simp [hnone, mt (offset_aligned_iff off).2 h8]

theorem validAccess_b8 (off : Offset) : validAccess off .b8 = regAt off := if_pos rfl

theorem validAccess_offsetOf (r : Reg) : validAccess (offsetOf r) .b8 = some r :=
  (validAccess_b8 _).trans (regAt_offsetOf r)

/-- A valid transaction is 8 bytes wide at a mapped offset (R161). -/
theorem exists_validAccess_iff (off : Offset) (size : AccessSize) :
    (∃ r, validAccess off size = some r) ↔ size = .b8 ∧ ∃ r, regAt off = some r := by
  by_cases h : size = .b8 <;> simp [validAccess, h]

/-! ### Reads -/

section
variable {s : State} {off : Offset} {size : AccessSize}

/-- A valid read returns what the register reads as. -/
theorem State.rd_of_valid {r : Reg} (h : validAccess off size = some r) : s.rd off size = s.reply (s.readReg r) := by
  rw [State.rd, h]

/-- An invalid read in FAULT only returns a value (R161). -/
theorem State.rd_of_invalid_of_fault (hf : s.fault = true) (h : validAccess off size = none) :
    s.rd off size = s.reply none := by
  rw [State.rd, h]; exact if_pos hf

/-- An invalid read outside FAULT returns a value and raises ACCESS (R161). -/
theorem State.rd_of_invalid (hf : s.fault = false) (h : validAccess off size = none) :
    s.rd off size = (s.reply none).raise .access := by
  rw [State.rd, h]; exact if_neg (by simp [hf])

/-- In FAULT and while BUSY every register but STATUS reads as `any` (R162, R166, R167). -/
theorem State.readReg_of_fault_or_busy (h : s.fault = true ∨ s.busy = true) {r : Reg} (hr : r ≠ .status) :
    s.readReg r = none := by
  rw [State.readReg, if_neg hr]
  obtain hf | hb := h
  · exact if_pos hf
  · rw [if_pos hb, ite_self]

/-- On a block that takes commands a register reads as its value (R162). -/
theorem State.readReg_of_accepts (ha : s.Accepts) (r : Reg) : s.readReg r = s.readValue r := by
  by_cases hr : r = .status
  · rw [hr]; rfl
  · simp [State.readReg, hr, ha.1, ha.2]

/-- In FAULT and while BUSY a valid read of a register but STATUS returns one value, `any`. -/
theorem State.exists_rd_of_fault_or_busy (h : s.fault = true ∨ s.busy = true) {r : Reg} (hr : r ≠ .status) :
    ∃ v, s.rd (offsetOf r) .b8 = { s with reads := s.reads ++ [v], draws := s.draws + 1 } := by
  rw [State.rd_of_valid (validAccess_offsetOf r), State.readReg_of_fault_or_busy h hr]
  exact ⟨s.free 0, rfl⟩

/-- On a block that takes commands a valid read returns the register's value, where it has one (R162). -/
theorem State.rd_of_readValue (ha : s.Accepts) {r : Reg} {v : Word} (hv : s.readValue r = some v) :
    s.rd (offsetOf r) .b8 = { s with reads := s.reads ++ [v] } := by
  rw [State.rd_of_valid (validAccess_offsetOf r), State.readReg_of_accepts ha, hv]; rfl

end

/-- The offset of an entry of the constant table: its TSRC field is 0 (R39). -/
theorem offsetOf_tbl_rom (ch : Ch) (i : Byte) :
    offsetOf (.tbl ch .rom i) = 0x1000 + 0x1000 * ch.index.setWidth 16 + 8 * i.setWidth 16 := by
  simp [offsetOf, TSrc.bit]

/-- The offset of an entry of the synthesized table (R39). -/
theorem offsetOf_tbl_ram (ch : Ch) (i : Byte) :
    offsetOf (.tbl ch .ram i) = 0x1800 + 0x1000 * ch.index.setWidth 16 + 8 * i.setWidth 16 := by
  cases ch <;> rfl

/-- On a block that takes commands an entry of a table that is not valid reads as one value, `any` (R25, R162). -/
theorem State.exists_rd_tram_of_invalid {s : State} (ha : s.Accepts) {ch : Ch} (hv : s.tvalid ch = false) (i : Byte) :
    ∃ v, s.rd (offsetOf (.tbl ch .ram i)) .b8 = { s with reads := s.reads ++ [v], draws := s.draws + 1 } := by
  have hnone : s.readValue (.tbl ch .ram i) = none := by simp [State.readValue, hv]
  rw [State.rd_of_valid (validAccess_offsetOf _), State.readReg_of_accepts ha, hnone]
  exact ⟨s.free 0, rfl⟩

/-- Settles O35, register by register from the value each reads as. -/
theorem readsReturnRegisters : Obligations.ReadsReturnRegisters := by
  intro s
  refine ⟨s.rd_status, fun h r hr => State.exists_rd_of_fault_or_busy h hr, fun ha => ?_⟩
  have hread {r : Reg} {v : Word} := State.rd_of_readValue ha (r := r) (v := v)
  refine ⟨hread (r := .cmd) rfl, hread (r := .addr) rfl, hread (r := .len) rfl, hread (r := .count) rfl, fun ch =>
    ⟨hread (r := .crc ch) rfl, hread (r := .digest ch) rfl, fun i => ?_⟩⟩
  rw [← offsetOf_tbl_rom, ← offsetOf_tbl_ram]
  exact ⟨hread rfl, fun hv => hread (by simp [State.readValue, hv]), fun hv => State.exists_rd_tram_of_invalid ha hv i⟩

/-! ### Writes -/

section
variable {s : State} {off : Offset} {size : AccessSize} (v : Word)

/-- In FAULT every WR is ignored (R163, R165). -/
theorem State.wr_of_fault (hf : s.fault = true) (off : Offset) (size : AccessSize) : s.wr off size v = .next s :=
  if_pos hf

/-- An invalid WR outside FAULT raises ACCESS (R161). -/
theorem State.wr_of_invalid (hf : s.fault = false) (h : validAccess off size = none) :
    s.wr off size v = .next (s.raise .access) := by
  simp [State.wr, hf, h]

/-- A valid WR while BUSY raises BUSY (R163, R166). -/
theorem State.wr_of_busy (hf : s.fault = false) (hb : s.busy = true) {r : Reg} (h : validAccess off size = some r) :
    s.wr off size v = .next (s.raise .busy) := by
  simp [State.wr, hf, hb, h]

/-- A valid WR on a block that takes commands is the register's write effect (R163). -/
theorem State.wr_of_accepts (ha : s.Accepts) {r : Reg} (h : validAccess off size = some r) :
    s.wr off size v = s.writeReg r v := by
  simp [State.wr, ha.1, ha.2, h]

end

/-- Settles O38: the state of the block decides first, and then the register. -/
theorem writesByRegister : Obligations.WritesByRegister := by
  intro s r v
  refine ⟨fun hf => State.wr_of_fault v hf _ _, fun hf hb => State.wr_of_busy v hf hb (validAccess_offsetOf r),
    fun hf hb => ?_⟩
  rw [State.wr_of_accepts v ⟨hf, hb⟩ (validAccess_offsetOf r),
    ← State.raise_of_idle s .access (s.busy_eq_false_iff.1 hb)]
  cases r <;> rfl

/-- Settles O36: the writes by BUSY, the reads by what FAULT and BUSY hide, and STATUS by its bits. -/
theorem accessesWhileBusyOrInFault : Obligations.AccessesWhileBusyOrInFault := by
  refine fun s => ⟨fun hf hb => ?_, fun hf => ?_⟩
  · exact ⟨fun r v => State.wr_of_busy v hf hb (validAccess_offsetOf r), ⟨rfl, rfl, rfl⟩,
      congrArg State.reads s.rd_status, s.status_bit0.trans hb,
      fun r hr => State.exists_rd_of_fault_or_busy (.inr hb) hr⟩
  · exact ⟨s.rd_status, (s.status_getLsbD 1).trans hf, s.status_err_bits,
      fun r hr => State.exists_rd_of_fault_or_busy (.inl hf) hr⟩

/-- Settles O37: the valid transactions by the map of the window, the invalid ones by the state of the block. -/
theorem invalidTransactionsRaiseAccess : Obligations.InvalidTransactionsRaiseAccess := by
  refine ⟨fun off size => by rw [exists_validAccess_iff, exists_regAt_iff], fun s off size v h => ⟨fun hf => ?_,
    fun hf hb => ?_, fun hf => ?_⟩⟩
  · rw [State.rd_of_invalid hf h, State.wr_of_invalid v hf h, State.raise_reads]
    exact ⟨⟨rfl, rfl⟩, s.reply_reads none, _, rfl, rfl, rfl, s.raise_reads .access⟩
  · have hidle := s.busy_eq_false_iff.1 hb
    rw [State.rd_of_invalid hf h, State.wr_of_invalid v hf h, State.raise_of_idle s .access hidle,
      State.raise_of_idle (s.reply none) .access ((s.reply_seq none).trans hidle)]
    exact ⟨rfl, s.free 0, rfl⟩
  · rw [State.rd_of_invalid_of_fault hf h]
    exact ⟨State.wr_of_fault v hf off size, s.free 0, rfl⟩

end Sys2Proof.Machine
end

section
/-! SUPPORT. Commands at the host's interface (43_host_access.md): what FAULT and BUSY make of a command (R163 to R166),
which command a written value selects (R164), the transaction that carries it (R74), and the frame of FAULT (R165,
R182). -/

namespace Sys2Proof.Machine

/-! ### Commands in FAULT and while BUSY -/

/-- Settles O21: no command is accepted in FAULT. -/
theorem commandsInFaultAreIgnored : Obligations.CommandsInFaultAreIgnored := by
  intro i s hf
  rw [exec_eq_accepting, State.accepting, if_pos hf]

/-- Every command while BUSY raises BUSY (R166). -/
theorem exec_of_busy (i : Instr) {s : State} (hf : s.fault = false) (hb : s.busy = true) :
    exec i s = .next (s.raise .busy) := by
  simp [exec_eq_accepting, State.accepting, hf, hb]

/-- Settles O22: what the error BUSY leaves, as every error does. -/
theorem commandsWhileBusyRaiseBusy : Obligations.CommandsWhileBusyRaiseBusy := fun i s hf hb =>
  ⟨s.raise .busy, exec_of_busy i hf hb, rfl, rfl, rfl, rfl, ⟨s.raise_addr .busy, s.raise_len .busy⟩,
    s.raise_sameMemory .busy, s.raise_portReads .busy, s.raise_tvalid .busy, s.raise_of_synth .busy,
    s.raise_of_fold .busy⟩

/-! ### The command a written value selects -/

/-- A legal value is accepted as the command it carries. -/
theorem State.accept_of_ok (s : State) {v : Word} {i : Instr} (h : decode v = .ok i) : s.accept v = exec i s := by
  rw [State.accept, h]

/-- The decoder gives a legal value the command that its low fields select (R85). -/
theorem decodeFields_of_decode {v : Word} {i : Instr} (h : decode v = .ok i) : decodeFields (fieldsOf v) = .ok i := by
  simp only [decode] at h
  split_ifs at h
  exact h

/-- The command that low fields select, OP by OP (R85, R164). -/
theorem decodeFields_ok_by_op {f : Fields} {i : Instr} (h : decodeFields f = .ok i) :
    (f.op = 0 → i = .nop) ∧ (f.op = 1 → i = .seed (Ch.ofIndex f.ch)) ∧ (f.op = 2 → i = .synth (Ch.ofIndex f.ch)) ∧
    (f.op = 3 → i = .update (Ch.ofIndex f.ch) (TSrc.ofBit f.tsrc) f.imm8) ∧
    (f.op = 4 → i = .calcLen (Ch.ofIndex f.ch) (TSrc.ofBit f.tsrc)) ∧
    (f.op = 5 → i = .calcz (Ch.ofIndex f.ch) (TSrc.ofBit f.tsrc)) := by
  simp only [decodeFields] at h
  split_ifs at h <;> simp_all

/-- Settles O39: an illegal value by the decoder's error, a legal one by the command of its OP. -/
theorem acceptanceByOpcode : Obligations.AcceptanceByOpcode := by
  intro s v _
  refine ⟨fun h => ?_, fun h => ?_⟩
  · obtain ⟨e, he⟩ := (exists_decode_error_iff v).2 h
    rw [State.accept, he]
  · obtain ⟨i, hi⟩ := (exists_decode_ok_iff v).2 h
    obtain ⟨h0, h1, h2, h3, h4, h5⟩ := decodeFields_ok_by_op (decodeFields_of_decode hi)
    rw [s.accept_of_ok hi]
    exact ⟨fun ho => h0 ho ▸ rfl, fun ho => h1 ho ▸ rfl, fun ho => h2 ho ▸ rfl, fun ho => h3 ho ▸ rfl,
      fun ho => h4 ho ▸ rfl, fun ho => h5 ho ▸ rfl⟩

/-! ### The transaction that carries a command -/

/-- A write of a legal value to CMD is the command it carries, in every state: WR checks FAULT and BUSY as the command
does (R163, R164). -/
theorem State.wr_cmd (s : State) {v : Word} {i : Instr} (h : decode v = .ok i) : s.wr 0x0000 .b8 v = exec i s := by
  have hcmd : validAccess 0x0000 .b8 = some .cmd := rfl
  cases hf : s.fault with
  | true => rw [State.wr_of_fault v hf, commandsInFaultAreIgnored i s hf]
  | false =>
    cases hb : s.busy with
    | true => rw [State.wr_of_busy v hf hb hcmd, exec_of_busy i hf hb]
    | false => rw [State.wr_of_accepts v ⟨hf, hb⟩ hcmd]; exact s.accept_of_ok h

/-- The command of a table row's word is the one its bits decode to. -/
theorem decode_of_decodeTableWord {nbits w : Nat} {i : Instr} (h : decodeTableWord nbits w = some i) :
    decode (BitVec.ofNat 64 (w % 2 ^ nbits)) = .ok i := by
  simp only [decodeTableWord] at h
  split_ifs at h
  cases hd : decode (BitVec.ofNat 64 (w % 2 ^ nbits)) <;> simp_all [Except.toOption]

/-- Settles O48: the step is the write to CMD, and a word that is placed is such a write. -/
theorem stepRunsTheDecodedCommand : Obligations.StepRunsTheDecodedCommand := by
  refine ⟨fun s v i rest hin hd => ?_, fun s nbits w i hd => ?_⟩
  · rw [step_of_inputs hin]
    exact State.wr_cmd _ hd
  · rw [step_of_inputs (s := s.withFetchWord nbits w) rfl]
    exact s.wr_cmd (decode_of_decodeTableWord hd)

/-! ### The frame of FAULT -/

@[simp] theorem State.pollOnce_portReads (s : State) : s.pollOnce.portReads = s.portReads := by
  unfold State.pollOnce
  split <;> simp

/-- In FAULT no event but a reset changes the block, and none makes it read (R165, R182). -/
theorem State.handle_frame_of_fault {s t : State} {e : Event} (hf : s.fault = true) (hidle : s.seq = .idle)
    (he : e ≠ .reset) (h : s.handle e = .next t) : s.SameBlock t ∧ s.NoRead t := by
  cases e with
  | rd off size =>
    obtain rfl : s.rd off size = t := by simpa [State.handle] using h
    obtain ⟨v, hv⟩ | ⟨hf', -, -⟩ := s.rd_cases off size
    · exact hv ▸ ⟨s.sameBlock_reply v, s.reply_portReads v⟩
    · rw [hf] at hf'; cases hf'
  | wr off size v =>
    rw [State.handle, State.wr_of_fault v hf] at h
    cases h; exact ⟨.refl s, rfl⟩
  | poll => cases h; exact ⟨s.sameBlock_pollOnce, s.pollOnce_portReads⟩
  | tick => cases h; rw [State.seqStep_of_idle hidle]; exact ⟨.refl s, rfl⟩
  | reset => exact absurd rfl he
  | memWrite a b => cases h; exact ⟨s.sameBlock_memWrite a b, rfl⟩

/-- Settles O42: in FAULT the sequencer is Idle, so its own turn does nothing, and no event but a reset reaches the
block. -/
theorem onlyResetLeavesFault : Obligations.OnlyResetLeavesFault := by
  intro s t hinv hf hne hstep
  have hidle : s.seq = .idle := hinv.faults.2 hf
  obtain ⟨hb, hport⟩ : s.SameBlock t ∧ s.NoRead t := by
    obtain ⟨-, rfl⟩ | ⟨e, rest, hin, he⟩ := step_cases hstep
    · rw [State.seqStep_of_idle hidle]; exact ⟨.refl s, rfl⟩
    · obtain ⟨hb, hport⟩ := State.handle_frame_of_fault (s := { s with inputs := rest }) hf hidle
        (fun h => hne (by rw [hin, h]; rfl)) he
      exact ⟨(s.sameBlock_inputs rest).trans hb, hport⟩
  exact ⟨⟨hb.fault, hb.err, hb.seq⟩, hb.channels, ⟨hb.addr, hb.len⟩, hb.count, hport⟩

end Sys2Proof.Machine
end

section
/-! SUPPORT. A CALC that meets a byte the platform refuses (60_exceptions.md R179): the fold takes the admitted bytes before
it, and the error at it ends the command. -/

namespace Sys2Proof.Machine

/-! ### The admitted bytes before the refused one -/

theorem State.SameBeyond.refl (s : State) (ch : Ch) : s.SameBeyond s ch :=
  ⟨fun _ _ => rfl, ⟨rfl, rfl⟩, rfl, rfl, .refl s, rfl, rfl, rfl⟩

theorem State.Folded.refl (s : State) (ch : Ch) : s.Folded s ch [] [] :=
  ⟨rfl, by simp, by simp, rfl, .refl s ch⟩

/-- A CALC's fold takes its next bytes as far as they are admitted, one step each, and then has the others before it
(R144). -/
theorem State.Folds.takes_admitted {s : State} {f : FoldState} (h : s.Folds f) (hmode : f.mode = .len)
    {as rest : List Addr} (hp : f.pendingAddrs = as ++ rest) (hadm : ∀ a ∈ as, s.memAdmit a = true) :
    ∃ t g, s.BusyUntil as.length t ∧ t.Folds g ∧ g.ch = f.ch ∧ g.pendingAddrs = rest ∧
      s.Folded t f.ch (as.map s.memByte) as := by
  induction as generalizing s f with
  | nil => exact ⟨s, f, .refl s, h, rfl, hp, .refl s f.ch⟩
  | cons a as ih =>
    have hk : f.k ≠ f.len := fun hk => by simp [FoldState.pendingAddrs_of_done hk] at hp
    obtain ⟨rfl, hnext⟩ := List.cons.inj ((FoldState.pendingAddrs_of_ne hk).symm.trans hp)
    obtain ⟨hfolds, hfolded⟩ := h.folded_of_byte hk (hadm _ List.mem_cons_self) (by simp [hmode])
    have hmem := hfolded.beyond.memory
    have hadm' := fun b hb => (hmem.2.2 b).2.trans (hadm b (List.mem_cons_of_mem _ hb))
    obtain ⟨t, g, hbusy, hg, hch, hrest, htaken⟩ := ih hfolds hmode hnext hadm'
    rw [State.memByte_of_sameMemory hmem] at htaken
    exact ⟨t, g, h.busyUntil_foldStep.head hbusy, hg, hch, hrest, hfolded.trans htaken⟩

/-- A fold whose next byte is refused raises BUS at it (R144, R179). -/
theorem State.Folds.busyUntil_raise {s : State} {f : FoldState} (h : s.Folds f) {a : Addr} {as : List Addr}
    (hp : f.pendingAddrs = a :: as) (href : s.memAdmit a = false) : s.BusyUntil 1 (s.raise .bus) := by
  have hk : f.k ≠ f.len := fun hk => by simp [FoldState.pendingAddrs_of_done hk] at hp
  obtain ⟨rfl, -⟩ := List.cons.inj ((FoldState.pendingAddrs_of_ne hk).symm.trans hp)
  exact State.foldStep_of_refused hk href ▸ h.busyUntil_foldStep

/-- The buffer around its byte `j` (R62). -/
theorem State.bufferAddrs_split {s : State} {j : Nat} (hj : j < s.len.toNat) :
    s.bufferAddrs = s.bufferAddrs.take j ++ (s.addr + BitVec.ofNat 64 j) :: s.bufferAddrs.drop (j + 1) := by
  have hlen : j < s.bufferAddrs.length := by simpa using hj
  have hget : s.bufferAddrs[j] = s.addr + BitVec.ofNat 64 j := by simp [State.bufferAddrs]
  rw [← hget, ← List.drop_eq_getElem_cons hlen, List.take_append_drop]

/-- Settles O31: from the acceptance to the fold, through the `j` admitted bytes, and the error at the next one, which leaves
the sequencer Idle with no event waiting. -/
theorem calcStopsAtFirstRefusedByte : Obligations.CalcStopsAtFirstRefusedByte := by
  intro ch src s j ha hin hrange hj hadm href
  obtain ⟨t, hsynth, hready⟩ := State.startFold_readyToFold ha hin hrange ch src .len
  have hadmits := hready.beyond.memory.2.2
  have hprefix : ∀ a ∈ s.bufferAddrs.take j, t.memAdmit a = true := fun a hmem =>
    (hadmits a).2.trans ((hadm.mono (Nat.min_le_left _ _)).of_mem_take hmem)
  obtain ⟨v, g, htake, hfolds, hg, hrest, hfolded⟩ := hready.folds.takes_admitted rfl
    ((s.latchFold_pendingAddrs ch src .len).trans (State.bufferAddrs_split hj)) hprefix
  have hbeyond := hready.beyond.trans hfolded.beyond
  have herr := hfolds.busyUntil_raise hrest ((hbeyond.memory.2.2 _).2.trans href)
  have hcount : synthSteps src + ((s.bufferAddrs.take j).length + 1) = j + 1 + synthSteps src := by
    rw [List.length_take, State.bufferAddrs_length, Nat.min_eq_left hj.le, Nat.add_comm]
  refine ⟨_, v.raise .bus, exec_of_accepts _ s ha, hcount ▸ (hsynth.trans (htake.trans herr)).2, rfl, rfl, rfl, ?_,
    run_of_idle rfl ((v.raise_inputs .bus).trans hfolds.inputs), fun c hc => ?_,
    ⟨(v.raise_addr .bus).trans hbeyond.addrLen.1, (v.raise_len .bus).trans hbeyond.addrLen.2⟩,
    hbeyond.memory.trans (v.raise_sameMemory .bus)⟩
  · rw [State.raise_portReads, hfolded.port, hready.port]
  · have hother := (v.raise_of_fold .bus g hfolds.seq).1 c
    rw [hg] at hother
    exact (hother hc).trans (hbeyond.channels c hc)

end Sys2Proof.Machine
end

section
/-! SUPPORT. The errors (60_exceptions.md): what raising one does (R176, R177), the cause that each error of a step has (R175),
said once as `State.Causes`, and from it the priority of the errors of a transaction (R178). -/

namespace Sys2Proof

theorem Ch.index_ofIndex (b : BitVec 2) : (Ch.ofIndex b).index = b := by
  revert b; decide

theorem TSrc.bit_ofBit (b : BitVec 1) : (TSrc.ofBit b).bit = b := by
  revert b; decide

end Sys2Proof

namespace Sys2Proof.Machine

/-! ### Errors are states -/

/-- Settles O41: an idle block, a fold and a synthesis by what the error abandons. -/
theorem raisingAnError : Obligations.RaisingAnError := fun s e =>
  ⟨⟨rfl, rfl, rfl, rfl⟩, s.raise_of_idle e, s.raise_of_fold e,
    fun ch n hs => ⟨s.raise_of_synth e ch n hs, s.raise_tvalid e ch⟩, ⟨s.raise_addr e, s.raise_len e⟩,
    s.raise_sameMemory e, s.raise_portReads e⟩

/-- Every command answers a next state: it is ignored, raises BUSY, or has its effect (R163). -/
theorem exists_exec_eq_next (i : Instr) (s : State) : ∃ t, exec i s = .next t := by
  rw [exec_eq_accepting, State.accepting]
  split_ifs <;> exact ⟨_, rfl⟩

/-- So does every value written to CMD (R164). -/
theorem State.exists_accept_eq_next (s : State) (v : Word) : ∃ t, s.accept v = .next t := by
  cases hd : decode v with
  | error e => rw [State.accept, hd]; exact ⟨_, rfl⟩
  | ok i => rw [s.accept_of_ok hd]; exact exists_exec_eq_next i s

/-- So does every WR (R163). -/
theorem State.exists_wr_eq_next (s : State) (off : Offset) (size : AccessSize) (v : Word) :
    ∃ t, s.wr off size v = .next t := by
  cases hf : s.fault with
  | true => exact ⟨_, State.wr_of_fault v hf off size⟩
  | false =>
    cases hr : validAccess off size with
    | none => exact ⟨_, State.wr_of_invalid v hf hr⟩
    | some r =>
      cases hb : s.busy with
      | true => exact ⟨_, State.wr_of_busy v hf hb hr⟩
      | false =>
        rw [State.wr_of_accepts v ⟨hf, hb⟩ hr]
        cases r with
        | cmd => exact s.exists_accept_eq_next v
        | _ => exact ⟨_, rfl⟩

/-- Settles O49: of the events only a WR is no plain next state by its definition, and it answers one too. -/
theorem everyStepAnswersNext : Obligations.EveryStepAnswersNext := by
  intro s
  cases hin : s.inputs with
  | nil => exact ⟨_, step_of_no_inputs hin⟩
  | cons e rest =>
    rw [step_of_inputs hin]
    cases e with
    | wr off size v => exact State.exists_wr_eq_next _ off size v
    | _ => exact ⟨_, rfl⟩

/-! ### The registers by their offsets -/

/-- An offset that maps to a register is the register's own (R38, R39). -/
theorem eq_offsetOf_of_regAt {off : Offset} {r : Reg} (h : regAt off = some r) : off = offsetOf r := by
  unfold regAt at h
  split_ifs at h with h8 <;> cases h
  case pos | pos | pos | pos | pos => assumption
  all_goals
    rw [not_not, offset_aligned_iff] at h8
    simp only [offsetOf, Ch.index_ofIndex, TSrc.bit_ofBit, bitvec_to_nat, BitVec.extractLsb'_toNat,
      Nat.shiftRight_eq_div_pow] at *
    omega

/-- A valid transaction is 8 bytes wide at its register's own offset (R38, R39, R161). -/
theorem eq_offsetOf_of_validAccess {off : Offset} {size : AccessSize} {r : Reg} (h : validAccess off size = some r) :
    size = .b8 ∧ off = offsetOf r := by
  obtain ⟨rfl, -⟩ := (exists_validAccess_iff off size).1 ⟨r, h⟩
  exact ⟨rfl, eq_offsetOf_of_regAt (validAccess_b8 off ▸ h)⟩

/-! ### The cause of each error -/

/-- The cause that R175 names for an error code, as the block's state and the event of the step show it; the event is `none`
where nothing waits and the sequencer takes its turn. -/
inductive State.Causes (s : State) (e : Option Event) : ErrCode → Prop
  | illegal {v : Word} (hb : s.busy = false) (he : e = some (.wr 0x0000 .b8 v)) (hv : illegal v = true) :
      Causes s e .illegal
  | notable {v : Word} {ch : Ch} {imm : Byte} (hb : s.busy = false) (he : e = some (.wr 0x0000 .b8 v))
      (hd : decode v = .ok (.update ch .ram imm)) (hv : s.tvalid ch = false) : Causes s e .notable
  | busy {off : Offset} {v : Word} {r : Reg} (hb : s.busy = true) (he : e = some (.wr off .b8 v))
      (hr : validAccess off .b8 = some r) : Causes s e .busy
  | range {v : Word} {ch : Ch} {src : TSrc} (hb : s.busy = false) (he : e = some (.wr 0x0000 .b8 v))
      (hd : decode v = .ok (.calcLen ch src) ∨ decode v = .ok (.calcz ch src)) (hrange : ¬ s.RangeOk) : Causes s e .range
  | bus {f : FoldState} (he : e = none ∨ e = some .tick) (hs : s.seq = .fold f) (hk : f.k ≠ f.len)
      (hm : s.memAdmit f.address = false) : Causes s e .bus
  | invalid {off : Offset} {size : AccessSize} (hr : validAccess off size = none)
      (he : e = some (.rd off size) ∨ ∃ v, e = some (.wr off size v)) : Causes s e .access
  | readOnly {r : Reg} {v : Word} (hb : s.busy = false) (he : e = some (.wr (offsetOf r) .b8 v))
      (hr : r ≠ .cmd ∧ r ≠ .addr ∧ r ≠ .len) : Causes s e .access

/-- FAULT and ERR are as they were, or the error that is recorded has its cause. -/
def State.ErrsByCause (s t : State) (e : Option Event) : Prop :=
  (t.fault = s.fault ∧ t.err = s.err) ∨ s.Causes e t.err

/-- A CALC or CALCZ whose range wraps raises RANGE (R68, R142, R145). -/
theorem State.startFold_of_not_rangeOk {s : State} (h : ¬ s.RangeOk) (ch : Ch) (src : TSrc) (mode : FoldMode) :
    s.startFold ch src mode = s.raise .range :=
  if_pos (by rwa [← Bool.not_eq_false, State.rangeBad_eq_false_iff])

/-- The only error of an accepted CALC or CALCZ is the RANGE of R68. -/
theorem State.startFold_errsByCause {s : State} (hb : s.busy = false) {v : Word} {ch : Ch} {src : TSrc}
    (hd : decode v = .ok (.calcLen ch src) ∨ decode v = .ok (.calcz ch src)) (mode : FoldMode) :
    s.ErrsByCause (s.startFold ch src mode) (some (.wr 0x0000 .b8 v)) := by
  by_cases hrange : s.RangeOk
  · obtain ⟨-, hfault, -⟩ := State.startFold_frame hrange ch src mode
    obtain ⟨-, -, -, herr, -⟩ := State.startFold_start hrange ch src mode
    exact .inl ⟨hfault, herr⟩
  · rw [State.startFold_of_not_rangeOk hrange]
    exact .inr (.range hb rfl hd hrange)

/-- The errors of an accepted command: NOTABLE of an UPDATE, RANGE of a CALC or CALCZ, and no other (R178). -/
theorem State.effect_errsByCause {s : State} (hb : s.busy = false) {v : Word} {i : Instr} (hd : decode v = .ok i) :
    s.ErrsByCause (effect i s) (some (.wr 0x0000 .b8 v)) := by
  cases i with
  | nop => exact .inl ⟨rfl, rfl⟩
  | seed ch => exact .inl (by simp [effect])
  | synth ch => exact .inl (by simp [effect, State.startSynth])
  | update ch src imm =>
    by_cases hv : src = .ram → s.tvalid ch = true
    · rw [effect_update_of_valid imm hv]
      exact .inl (by simp [State.foldByte])
    · simp only [Classical.not_imp, Bool.not_eq_true] at hv
      obtain ⟨rfl, hv⟩ := hv
      rw [effect_update_of_invalid imm hv]
      exact .inr (.notable hb rfl hd hv)
  | calcLen ch src => exact State.startFold_errsByCause hb (.inl hd) .len
  | calcz ch src => exact State.startFold_errsByCause hb (.inr hd) .z

/-- The errors of a valid WR on a block that takes commands. -/
theorem State.writeReg_errsByCause {s t : State} (ha : s.Accepts) {r : Reg} {v : Word} (h : s.writeReg r v = .next t) :
    s.ErrsByCause t (some (.wr (offsetOf r) .b8 v)) := by
  obtain ⟨rfl, e, hd, rfl⟩ | ⟨rfl, i, hd, hx⟩ | ⟨-, rfl⟩ | ⟨-, rfl⟩ | ⟨hcmd, haddr, hlen, rfl⟩ := State.writeReg_cases h
  · exact .inr (.illegal ha.2 rfl ((exists_decode_error_iff v).1 ⟨e, hd⟩))
  · obtain rfl : effect i s = t := by simpa [exec_of_accepts i s ha] using hx
    exact State.effect_errsByCause ha.2 hd
  · exact .inl ⟨rfl, rfl⟩
  · exact .inl ⟨rfl, rfl⟩
  · exact .inr (.readOnly ha.2 rfl ⟨hcmd, haddr, hlen⟩)

/-- The errors of a WR, in the order of R178. -/
theorem State.wr_errsByCause {s t : State} {off : Offset} {size : AccessSize} {v : Word} (h : s.wr off size v = .next t) :
    s.ErrsByCause t (some (.wr off size v)) := by
  cases hf : s.fault with
  | true => cases (State.wr_of_fault v hf off size).symm.trans h; exact .inl ⟨rfl, rfl⟩
  | false =>
    cases hr : validAccess off size with
    | none => cases (State.wr_of_invalid v hf hr).symm.trans h; exact .inr (.invalid hr (.inr ⟨v, rfl⟩))
    | some r =>
      obtain ⟨rfl, rfl⟩ := eq_offsetOf_of_validAccess hr
      cases hb : s.busy with
      | true => cases (State.wr_of_busy v hf hb hr).symm.trans h; exact .inr (.busy hb rfl hr)
      | false => exact State.writeReg_errsByCause ⟨hf, hb⟩ ((State.wr_of_accepts v ⟨hf, hb⟩ hr).symm.trans h)

/-- The only error of an RD is the ACCESS of an invalid one (R161). -/
theorem State.rd_errsByCause (s : State) (off : Offset) (size : AccessSize) :
    s.ErrsByCause (s.rd off size) (some (.rd off size)) := by
  obtain ⟨v, hv⟩ | ⟨-, hr, hv⟩ := s.rd_cases off size
  · exact hv ▸ .inl ⟨s.reply_fault v, s.reply_err v⟩
  · exact hv ▸ .inr (.invalid hr (.inl rfl))

/-- The only error of a turn of the sequencer is the BUS of a fold (R144, R146). -/
theorem State.seqStep_errsByCause (s : State) {e : Option Event} (he : e = none ∨ e = some .tick) :
    s.ErrsByCause s.seqStep e := by
  cases hs : s.seq with
  | idle => rw [State.seqStep_of_idle hs]; exact .inl ⟨rfl, rfl⟩
  | synth ch n =>
    have hsame := s.synthStep_sameButTable ch n
    rw [State.seqStep_of_synth hs]
    exact .inl ⟨hsame.fault, hsame.err⟩
  | fold f =>
    rw [State.seqStep_of_fold hs]
    by_cases hk : f.k = f.len
    · rw [s.foldStep_of_done hk]; exact .inl ⟨rfl, rfl⟩
    · cases hm : s.memAdmit f.address with
      | false => rw [State.foldStep_of_refused hk hm]; exact .inr (.bus he hs hk hm)
      | true =>
        obtain ⟨-, -, hfault, herr, -⟩ := State.foldStep_read_frame hk hm
        exact .inl ⟨hfault, herr⟩

/-- The errors of an event; a reset ends in no error (R195). -/
theorem State.handle_errsByCause {s t : State} {e : Event} (h : s.handle e = .next t) :
    t.fault = false ∨ s.ErrsByCause t (some e) := by
  cases e with
  | rd off size => cases h; exact .inr (s.rd_errsByCause off size)
  | wr off size v => exact .inr (State.wr_errsByCause h)
  | poll => cases h; exact .inr (.inl ⟨s.sameBlock_pollOnce.fault, s.sameBlock_pollOnce.err⟩)
  | tick => cases h; exact .inr (s.seqStep_errsByCause (.inr rfl))
  | reset => cases h; exact .inl rfl
  | memWrite a b => cases h; exact .inr (.inl ⟨rfl, rfl⟩)

/-- A step that enters FAULT does so by the cause of its error, in the state from which its event is taken. -/
theorem causes_of_step {s t : State} (h : step s = .next t) (hs : s.fault = false) (ht : t.fault = true) :
    ∃ is, State.Causes { s with inputs := is } s.inputs.head? t.err := by
  have cause {u : State} {e : Option Event} (hu : u.fault = false) (h : u.ErrsByCause t e) : u.Causes e t.err := by
    refine h.resolve_left fun hsame => ?_
    simp [hsame.1, hu] at ht
  obtain ⟨hin, rfl⟩ | ⟨e, rest, hin, he⟩ := step_cases h
  · exact ⟨s.inputs, cause hs (s.seqStep_errsByCause (.inl (by rw [hin]; rfl)))⟩
  · exact ⟨rest, hin ▸ cause hs ((State.handle_errsByCause he).resolve_left (by simp [ht]))⟩

/-- Settles O43: FAULT and ERR agree by the invariant, which the step keeps, and the error has its cause. -/
theorem errIsTheFirstErrorsCode : Obligations.ErrIsTheFirstErrorsCode := by
  intro s t hinv hf hstep
  have hfaults := (stepKeepsInvariant s t hinv hstep).faults
  refine ⟨fun ht => by rw [hfaults.err_eq_none ht]; rfl, fun ht => ⟨hfaults.2 ht, ?_⟩⟩
  obtain ⟨is, hcause⟩ := causes_of_step hstep hf ht
  generalize t.err = c at hcause ⊢
  cases hcause with
  | illegal hb he hv => exact ⟨hb, _, he, hv⟩
  | notable hb he hd hv => exact ⟨hb, _, _, _, he, hd, hv⟩
  | busy hb he hr => exact ⟨hb, _, _, _, he, hr⟩
  | range hb he hd hrange => exact ⟨hb, ⟨_, _, _, he, hd⟩, hrange⟩
  | bus he hs hk hm => exact ⟨he.imp_left List.head?_eq_none_iff.1, _, hs, hk, hm⟩
  | invalid hr he => exact .inl ⟨_, _, hr, he⟩
  | readOnly hb he hr => exact .inr ⟨hb, _, _, he, hr⟩

/-! ### The priority of errors -/

/-- BUS arises in a turn of the sequencer alone (R178). -/
theorem State.ErrsByCause.err_eq_bus {s t : State} {e : Event} (h : s.ErrsByCause t (some e)) (he : e ≠ .tick)
    (ht : t.err = .bus) : s.err = .bus := by
  obtain ⟨-, herr⟩ | hcause := h
  · exact herr.symm.trans ht
  · rw [ht] at hcause
    cases hcause with
    | bus hturn => simp [he] at hturn

/-- In FAULT an RD only returns a value (R161, R162). -/
theorem State.rd_sameControl_of_fault {s : State} (hf : s.fault = true) (off : Offset) (size : AccessSize) :
    s.SameControl (s.rd off size) ∧ ∃ x, (s.rd off size).reads = s.reads ++ [x] := by
  obtain ⟨v, hv⟩ | ⟨hf', -, -⟩ := s.rd_cases off size
  · exact hv ▸ ⟨⟨s.reply_fault v, s.reply_err v, s.reply_seq v⟩, s.reply_reads v⟩
  · rw [hf] at hf'; cases hf'

/-- The registers but CMD, ADDR and LEN are read-only (R163). -/
theorem State.writeReg_of_readOnly {s : State} {r : Reg} (v : Word) (hr : r ≠ .cmd ∧ r ≠ .addr ∧ r ≠ .len) :
    s.writeReg r v = .next (s.raise .access) := by
  obtain ⟨hcmd, haddr, hlen⟩ := hr
  cases r with
  | cmd => exact absurd rfl hcmd
  | addr => exact absurd rfl haddr
  | len => exact absurd rfl hlen
  | _ => rfl

/-- Settles O40: each item by the rule of the WR or RD that it decides, and BUS by the causes of errors. -/
theorem errorPriority : Obligations.ErrorPriority := by
  intro s off size v
  refine ⟨fun hf => ?_, fun hf hr => ?_, fun hf r hr hb => State.wr_of_busy v hf hb hr, fun ha r hr hcmd haddr hlen => ?_,
    fun ha hr hv => ?_, fun ha hr => ⟨fun ch imm hd hv => ?_, fun ch src hd hrange => ?_⟩,
    (s.rd_errsByCause off size).err_eq_bus nofun, fun t h => (State.wr_errsByCause h).err_eq_bus nofun⟩
  · obtain ⟨hcontrol, hreads⟩ := State.rd_sameControl_of_fault hf off size
    exact ⟨State.wr_of_fault v hf off size, hcontrol, hreads, congrArg State.reads s.rd_status⟩
  · rw [State.rd_of_invalid hf hr]
    exact ⟨State.wr_of_invalid v hf hr, rfl, rfl⟩
  · rw [State.wr_of_accepts v ha hr, State.writeReg_of_readOnly v ⟨hcmd, haddr, hlen⟩]
  · obtain ⟨e, he⟩ := (exists_decode_error_iff v).2 hv
    rw [State.wr_of_accepts v ha hr, State.writeReg, State.accept, he]
  · rw [State.wr_of_accepts v ha hr, State.writeReg, s.accept_of_ok hd, exec_of_accepts _ s ha,
      effect_update_of_invalid imm hv]
  · obtain ⟨i, mode, hd, hfold⟩ : ∃ i mode, decode v = .ok i ∧ effect i s = s.startFold ch src mode := by
      obtain hd | hd := hd <;> exact ⟨_, _, hd, rfl⟩
    rw [State.wr_of_accepts v ha hr, State.writeReg, s.accept_of_ok hd, exec_of_accepts i s ha, hfold,
      State.startFold_of_not_rangeOk hrange]

end Sys2Proof.Machine
end

section
/-! SUPPORT. Reset and the end of a running command (70_reset_and_hazards.md): the values of the constant reset state and of a
reset event (R195, R197), and the turns the sequencer takes until it is Idle (R206). -/

namespace Sys2Proof.Machine

/-! ### The reset state -/

theorem State.reset_crc (ch : Ch) : State.reset.crc ch = ch.init := by cases ch <;> rfl

theorem State.reset_tvalid (ch : Ch) : State.reset.tvalid ch = false := by cases ch <;> rfl

theorem State.digest_of_crc_eq_init {s : State} {ch : Ch} (h : s.crc ch = ch.init) : s.digest ch = ch.calculate [] :=
  congrArg ch.fx h

/-- STATUS of a block that is idle and holds neither an error nor a valid table (R33). -/
theorem State.status_eq_zero {s : State} (ha : s.Accepts) (he : s.err = .none) (hv : ∀ ch, s.tvalid ch = false) :
    s.status = 0 := by
  obtain ⟨hf, hb⟩ := ha
  rw [State.status, State.tvalidBits, hf, hb, he, hv, hv, hv, hv]
  rfl

/-- Settles O44: the CRCs are the initial values, and the digests those of no bytes. -/
theorem resetValues : Obligations.ResetValues := by
  obtain ⟨-, h8, h16, h32, h64⟩ := emptyInputDigest
  have hdigest (ch : Ch) : State.reset.digest ch = ch.calculate [] := State.digest_of_crc_eq_init (State.reset_crc ch)
  exact ⟨⟨State.reset_crc .w8, State.reset_crc .w16, State.reset_crc .w32, State.reset_crc .w64⟩,
    State.reset_tvalid, rfl, rfl, rfl, State.status_eq_zero ⟨rfl, rfl⟩ rfl State.reset_tvalid, rfl,
    (hdigest .w8).trans h8, (hdigest .w16).trans h16, (hdigest .w32).trans h32, (hdigest .w64).trans h64⟩

/-- Settles O46: no error is recorded, no table is valid and the sequencer is Idle. -/
theorem resetSatisfiesInvariant : Obligations.ResetSatisfiesInvariant where
  memory := rfl
  faults := State.faultConsistent_of_clean rfl rfl
  tables ch _ hv := by simp [State.reset_tvalid ch] at hv
  sequencer := State.seqConsistent_of_idle rfl

/-! ### The reset event -/

/-- Settles O45: every channel and every register by the laws of `applyReset`, which leaves memory and the host's side. -/
theorem resetFromAnyState : Obligations.ResetFromAnyState := by
  intro s rest hin
  let u : State := { s with inputs := rest }
  have haccepts : u.applyReset.Accepts := ⟨rfl, rfl⟩
  refine ⟨u.applyReset, step_of_inputs hin, fun ch => ?_, rfl, rfl, rfl,
    State.status_eq_zero haccepts rfl fun ch => (u.applyReset_chan ch).2, rfl, rfl, haccepts,
    u.applyReset_portReads, u.applyReset_sameMemory, u.applyReset_inputs, u.applyReset_reads⟩
  obtain ⟨hcrc, htvalid⟩ := u.applyReset_chan ch
  exact ⟨hcrc, htvalid, State.digest_of_crc_eq_init hcrc⟩

/-! ### The sequencer becomes Idle -/

/-- With no event waiting the sequencer is Idle after its turns at most, each of which leaves it fewer (R206). -/
theorem exists_run_idle {s : State} (hin : s.inputs = []) : ∃ n u, run n s = .next u ∧ u.seq = .idle ∧ n ≤ s.seq.turns := by
  induction hm : s.seq.turns using Nat.strong_induction_on generalizing s with
  | h m ih =>
    by_cases hs : s.seq = .idle
    · exact ⟨0, s, rfl, hs, Nat.zero_le m⟩
    · have hturns : s.seqStep.seq.turns < m := hm ▸ State.seqStep_turns hs
      obtain ⟨n, u, hrun, hidle, hn⟩ := ih _ hturns (s.seqStep_inputs.trans hin) rfl
      exact ⟨n + 1, u, by rw [run, step_of_no_inputs hin]; exact hrun, hidle, hn.trans_lt hturns⟩

/-- A fold whose index lies in its range has LEN - k bytes still to read (R40). -/
theorem FoldState.InRange.pendingAddrs_length {f : FoldState} (h : f.InRange) :
    f.pendingAddrs.length = f.len.toNat - f.k.toNat := by
  rw [FoldState.pendingAddrs, List.length_map, List.length_range, BitVec.toNat_sub_of_le h.1]

/-- Settles O28: the turns that are left, counted by the bytes the latched fold has still to read. -/
theorem sequencerFinishes : Obligations.SequencerFinishes := by
  intro s hinv hin
  obtain ⟨n, u, hrun, hidle, hn⟩ := exists_run_idle hin
  refine ⟨n, u, hrun, hidle, u.busy_eq_false_iff.2 hidle, hn.trans ?_⟩
  have hq := hinv.sequencer
  cases hs : s.seq with
  | idle => exact Nat.le_refl 0
  | synth ch next =>
    cases next with
    | none => exact Nat.le_refl 1
    | some f =>
      simp only [State.SeqConsistent, hs] at hq
      obtain ⟨-, -, -, -, hrange, -⟩ := hq
      simp [Seq.turns, hrange.pendingAddrs_length]
  | fold f =>
    simp only [State.SeqConsistent, hs] at hq
    obtain ⟨-, hrange, -⟩ := hq
    simp [Seq.turns, hrange.pendingAddrs_length]

end Sys2Proof.Machine
end

section
/-! SUPPORT. The encoding as a correspondence (30_encoding.md R86): a CMD write value is its fields, a legal value has the
fields of the command it decodes to, and one row of the table selects it, the row of that command. Beside it the
correspondence of registers and mapped offsets (10_state.md R38, R39). -/

namespace Sys2Proof

/-! ### A value and its fields -/

/-- A CMD write value is determined by its fields, which cover it (R80, R81). -/
theorem fieldsOf_injective : Function.Injective fieldsOf := by
  intro v w h
  simp only [fieldsOf, Fields.mk.injEq] at h
  obtain ⟨hop, hch, htsrc, hbit7, himm8, hrsv, hhigh⟩ := h
  have hlow : v.extractLsb' 0 32 = w.extractLsb' 0 32 := by
    rw [low_eq_iff]
    simp only [BitVec.extractLsb'_extractLsb'_of_le, Nat.reduceAdd, Nat.reduceLeDiff]
    exact ⟨hrsv, himm8, hbit7, htsrc, hch, hop⟩
  have halves (u : Word) : u.extractLsb' 32 32 ++ u.extractLsb' 0 32 = u := by
    rw [BitVec.extractLsb'_append_extractLsb'_eq_extractLsb' (start₂ := 32) rfl]
    exact BitVec.extractLsb'_eq_self
  rw [← halves v, hhigh, hlow, halves w]

/-- The fields that select a command are the command's own, where the bits that must be 0 are 0 (R85, R87). -/
theorem fields_of_decodeFields {f : Fields} {i : Instr} (h : decodeFields f = .ok i)
    (hhigh : f.high = 0) (hbit7 : f.bit7 = 0) (hrsv : f.rsv = 0) : i.fields = f := by
  obtain ⟨op, ch, tsrc, bit7, imm8, rsv, high⟩ := f
  simp only [decodeFields] at h
  split_ifs at h <;> cases h <;> simp_all [Instr.fields, Instr.op, Ch.index_ofIndex, TSrc.bit_ofBit]

/-- A legal value has the fields of the command it decodes to (R86). -/
theorem fieldsOf_of_decode {v : Word} {i : Instr} (h : decode v = .ok i) : fieldsOf v = i.fields := by
  simp only [decode] at h
  split_ifs at h with hhigh hbit7 hrsv
  exact (fields_of_decodeFields h (not_not.1 hhigh) (not_not.1 hbit7) (not_not.1 hrsv)).symm

/-- Settles O1: the word of a command has the command's fields, and these select it. -/
theorem decodeInvertsEncode : Obligations.DecodeInvertsEncode := fun i _ => decode_encode i

/-- Settles O2: a legal value and the word of its command have the same fields, so they are the same value. -/
theorem encodeInvertsDecode : Obligations.EncodeInvertsDecode := fun _ i h =>
  fieldsOf_injective ((fieldsOf_encode i).trans (fieldsOf_of_decode h).symm)

/-- Settles O5: each legal word is the word of its command, and an illegal one has one item of R87. -/
theorem listedWordsDecode : Obligations.ListedWordsDecode :=
  ⟨decode_encode .nop, decode_encode (.seed .w32), decode_encode (.synth .w64), decode_encode (.update .w32 .ram 0x62),
    decode_encode (.update .w64 .ram 0xC1), decode_encode (.calcLen .w16 .ram), decode_encode (.calcz .w32 .rom),
    rfl, rfl, rfl, rfl, rfl, rfl, rfl⟩

/-! ### The rows of R86 -/

/-- Every row of R86 compares the whole OP field: a word it selects has the OP of its pattern. -/
theorem OpcodeRow.op_of_selects {r : OpcodeRow} (hr : r ∈ opcodeRows) {c : BitVec 32} (h : r.selects c = true) :
    c.extractLsb' 0 4 = r.pattern.extractLsb' 0 4 := by
  have hmask : ∀ r ∈ opcodeRows, r.mask.extractLsb' 0 4 = BitVec.allOnes 4 := by decide
  rw [← beq_iff_eq.1 h, BitVec.extractLsb'_and, and_eq_self_of_eq_allOnes (hmask r hr)]

/-- The OP of its pattern tells a row of R86 from the others. -/
theorem OpcodeRow.eq_of_op : ∀ r ∈ opcodeRows, ∀ r' ∈ opcodeRows,
    r.pattern.extractLsb' 0 4 = r'.pattern.extractLsb' 0 4 → r = r' := by
  decide

/-- Every command has its row in R86, whose pattern is the command's OP. -/
theorem Instr.exists_row (i : Instr) : ∃ r ∈ opcodeRows, r.mnemonic = i.mnemonic ∧ r.pattern = i.op.setWidth 32 := by
  cases i with
  | nop => exact Laws.Legal.nop.2
  | seed ch => exact (Laws.Legal.seed ch).2
  | synth ch => exact (Laws.Legal.synth ch).2
  | update ch src imm => exact (Laws.Legal.update ch src imm).2
  | calcLen ch src => exact (Laws.Legal.calcLen ch src).2
  | calcz ch src => exact (Laws.Legal.calcz ch src).2

theorem Instr.fields_op (i : Instr) : i.fields.op = i.op := by cases i <;> rfl

theorem Instr.extractLsb'_setWidth_op (i : Instr) : (i.op.setWidth 32).extractLsb' 0 4 = i.op := by cases i <;> rfl

/-- The row that selects a legal value is the row of the command it decodes to: both have the value's OP (R86). -/
theorem exists_row_of_decode {v : Word} {i : Instr} (h : decode v = .ok i) :
    ∃ r ∈ opcodeRows, r.mnemonic = i.mnemonic ∧ r.selects (v.extractLsb' 0 32) = true := by
  obtain ⟨-, r, hr, hsel⟩ := (legal_iff_exists_row v).1 ((exists_decode_ok_iff v).1 ⟨i, h⟩)
  obtain ⟨r', hr', hmnemonic, hpattern⟩ := i.exists_row
  have hop : (v.extractLsb' 0 32).extractLsb' 0 4 = r'.pattern.extractLsb' 0 4 := by
    rw [hpattern, Instr.extractLsb'_setWidth_op, ← Instr.fields_op, ← fieldsOf_of_decode h]
    exact BitVec.extractLsb'_extractLsb'_of_le (by decide)
  have hrow : r = r' := OpcodeRow.eq_of_op r hr r' hr' ((OpcodeRow.op_of_selects hr hsel).symm.trans hop)
  exact ⟨r, hr, hrow ▸ hmnemonic, hsel⟩

/-- Settles O4: the OP of the word fixes the row that selects it. -/
theorem opcodeRowsAreDisjoint : Obligations.OpcodeRowsAreDisjoint :=
  ⟨fun _ r hr r' hr' h h' => OpcodeRow.eq_of_op r hr r' hr'
    ((OpcodeRow.op_of_selects hr h).symm.trans (OpcodeRow.op_of_selects hr' h')),
    fun _ _ h => exists_row_of_decode h⟩

end Sys2Proof

namespace Sys2Proof.Machine

/-! ### The register window -/

/-- Settles O6: a register is read back from its own offset, and a mapped offset is that of the register it maps to. -/
theorem registerMapIsOneToOne : Obligations.RegisterMapIsOneToOne :=
  ⟨regAt_offsetOf, fun _ _ h => (eq_offsetOf_of_regAt h).symm⟩

end Sys2Proof.Machine
end
